-- ==== Sys2Proof/Word.lean ====
section
/-! DEFINITION. The plain word types of ARCADE-IO (spec/00_scope.md rules R5, R6): every value is an unsigned bit vector
of a stated width or a natural number. -/

namespace Sys2Proof

/-- One byte: a port's data, a memory cell, a colour (`DATA_BITS` = 8, rule R5). -/
abbrev Byte := BitVec 8

/-- The 16-bit width of the shift register and of a Memory Store address (`SHIFT_BITS`, `MEM_SIZE`, rule R5). -/
abbrev Half := BitVec 16

/-- The 9-bit port-transaction selector `{dir, port[7:0]}` (spec/30_encoding.md rule R91). -/
abbrev Selector := BitVec 9

/-- The timestamp type `Time`: the spec asks only for decidable equality (rule R5, decision D9).
DESIGN CHOICE, log 7: natural numbers. -/
abbrev Time := Nat

end Sys2Proof
end

