-- ==== Sys2Proof/Config.lean ====
section
/-! DEFINITION. What the platform fixes (spec/00_scope.md rule R5), the spec's open parameters as plain data, and the
one free value. -/

namespace Sys2Proof

/-! ## Fixed sizes (rule R5) -/

/-- `MEM_SIZE`: bytes of the Memory Store. -/
def memSize : Nat := 65536
/-- `VRAM_BASE`: first Memory Store address of video RAM. -/
def vramBase : Nat := 0x2400
/-- `VRAM_LEN`: length of video RAM and of every frame. -/
def vramLen : Nat := 7168
/-- `SRC_LINE_BYTES`: bytes of one source line. -/
def srcLineBytes : Nat := 32
/-- `SRC_LINE_PIX`: pixels of one source line; also `DST_H`. -/
def srcLinePix : Nat := 256
/-- `SRC_LINES`: number of source lines; also `DST_W`. -/
def srcLines : Nat := 224
/-- Bytes of one destination row of the 1-bit upright picture: 224 pixels (spec/44_video_blitter.md rule R205). -/
def uprightRowBytes : Nat := 28
/-- Number of pixels of one frame, and of bytes of an 8-bit picture: 224 × 256 (rules R203, R206). -/
def framePixels : Nat := 57344

/-! ## Input lines -/

/-- The two raster interrupt values, `ISR_ONE` and `ISR_TWO` (rule R12). -/
inductive RasterIrq where
  | one
  | two
deriving DecidableEq, Repr

/-- The external input lines: the 18 of the default `INPUT_MAP` (spec/30_encoding.md rules R97, R98, R99), and three spare ones
for the three mappable bits the default map fixes, so that a replaced map can put a line of its own on each of the 21 mappable
bits. DESIGN CHOICE: rule R5 leaves the set of lines open (log 29). -/
inductive LineId where
  | dip4Selftest
  | p0Fire
  | p0Left
  | p0Right
  | credit
  | p2Start
  | p1Start
  | p1Fire
  | p1Left
  | p1Right
  | dip3ShipsLo
  | dip5ShipsHi
  | tilt
  | dip6ExtraShip
  | p2Fire
  | p2Left
  | p2Right
  | dip7CoinInfo
  | spare0
  | spare1
  | spare2
deriving DecidableEq, Repr

/-- The place of a line in a `LineBits`. -/
def LineId.index : LineId → Fin 21
  | .dip4Selftest => 0
  | .p0Fire => 1
  | .p0Left => 2
  | .p0Right => 3
  | .credit => 4
  | .p2Start => 5
  | .p1Start => 6
  | .p1Fire => 7
  | .p1Left => 8
  | .p1Right => 9
  | .dip3ShipsLo => 10
  | .dip5ShipsHi => 11
  | .tilt => 12
  | .dip6ExtraShip => 13
  | .p2Fire => 14
  | .p2Left => 15
  | .p2Right => 16
  | .dip7CoinInfo => 17
  | .spare0 => 18
  | .spare1 => 19
  | .spare2 => 20

/-- One bit for each input line: the present levels, `EDGE_PREV`, or the set `EDGE_LINES`. -/
structure LineBits where
  bits : Vector Bool 21
deriving DecidableEq, Repr

/-- Every line 0. -/
def LineBits.none : LineBits := ⟨Vector.replicate 21 false⟩

/-- The bit of line `id`. -/
def LineBits.get (l : LineBits) (id : LineId) : Bool := l.bits[id.index]

/-- The bit of line `id` replaced by `v`. -/
def LineBits.set (l : LineBits) (id : LineId) (v : Bool) : LineBits :=
  ⟨l.bits.set id.index v id.index.isLt⟩

/-- What drives one bit of an input port: a line, or a fixed level (log 18). -/
inductive BitSource where
  | line (id : LineId)
  | fixed (level : Bool)
deriving DecidableEq, Repr

/-- The sources of the eight bits of one input port. -/
structure PortMap where
  b0 : BitSource
  b1 : BitSource
  b2 : BitSource
  b3 : BitSource
  b4 : BitSource
  b5 : BitSource
  b6 : BitSource
  b7 : BitSource
deriving DecidableEq, Repr

/-- The parameter `INPUT_MAP`, any map of the lines of `LineId` (log 29). Port 0 bits 3:1 of the map are never used: the port hard-wires them
(spec/40_port_reads.md rule R120). -/
structure InputMap where
  port0 : PortMap
  port1 : PortMap
  port2 : PortMap
deriving DecidableEq, Repr

/-! ## Open parameters -/

/-- The parameter `UPRIGHT8_LAYOUT` (spec/44_video_blitter.md rule R206, decision D21). -/
inductive Upright8Layout where
  | linear
  | asRgb332
deriving DecidableEq, Repr

/-- The open parameters of the spec (spec/92_eei_decisions.md section 8) as plain data. They stand in `State` and no step
writes them, so a statement about every state holds for every choice of them (log 6). -/
structure Params where
  /-- `RESET_SHIFT` (D4). -/
  resetShift : Half
  /-- `RESET_SHAMT` (D4). -/
  resetShamt : BitVec 3
  /-- `RESET_PREVA` (D4). -/
  resetPrevA : Byte
  /-- `RESET_PREVB` (D4). -/
  resetPrevB : Byte
  /-- `FRAME_IRQ` (D8). -/
  frameIrq : RasterIrq
  /-- `INPUT_MAP` (D13). -/
  inputMap : InputMap
  /-- `EDGE_LINES` (D14). -/
  edgeLines : LineBits
  /-- `UPRIGHT8_LAYOUT` (D21). -/
  upright8 : Upright8Layout
  /-- Recognized colour names besides "green" (N17; spec/70_reset_and_hazards.md rule R272). -/
  colourNames : List (String × Byte)
deriving DecidableEq, Repr

/-- FREE VALUE (log 10): the byte colour "random" draws at the `n`-th CONSTRUCT (spec/70_reset_and_hazards.md rule R272,
decision D33: any 8-bit value). Nothing is known of it. -/
opaque Config.drawnColour (n : Nat) : Byte

end Sys2Proof
end

