-- ==== Sys2Proof/Syntax.lean ====
section
/-! DEFINITION. The 24 operations of ARCADE-IO and their operands (spec/30_encoding.md rule R90), one constructor of `Instr`
for each row of spec/opcode_table.json. -/

namespace Sys2Proof

/-- The configuration CONSTRUCT takes (spec/70_reset_and_hazards.md rule R270): bits-per-pixel, orientation, colour, pool
size, as given, before any check. -/
structure Cfg where
  bpp : Nat
  orient : String
  colour : String
  pool : Nat
deriving DecidableEq, Repr

/-- The destination buffer of BLIT: `size` bytes of HOST's memory from address `base` (spec/20_memory.md rule R79; log 11). -/
structure DstBuf where
  base : Nat
  size : Nat
deriving DecidableEq, Repr

/-- The source of BLIT (spec/44_video_blitter.md rule R200, decision D37): a pool frame, or 7168 bytes of HOST's own memory. -/
inductive Source where
  | frame (k : Nat)
  | host (base : Nat)
deriving DecidableEq, Repr

/-- The operations. A port transaction's data byte and a host command's operands are the constructor's arguments. -/
inductive Instr where
  /-- `IN 0` (R120). -/
  | in0
  /-- `IN 1` (R121). -/
  | in1
  /-- `IN 2` (R122). -/
  | in2
  /-- `IN 3` (R123). -/
  | in3
  /-- `IN 6` (R124). -/
  | in6
  /-- `IN p` for an unmapped port (R125). -/
  | inUnmapped (port : Byte)
  /-- `OUT 2, d` (R141). -/
  | out2 (d : Byte)
  /-- `OUT 3, d` (R142). -/
  | out3 (d : Byte)
  /-- `OUT 4, d` (R143). -/
  | out4 (d : Byte)
  /-- `OUT 5, d` (R144). -/
  | out5 (d : Byte)
  /-- `OUT 6, d` (R145). -/
  | out6 (d : Byte)
  /-- `OUT p, d` for an unmapped port (R146). -/
  | outUnmapped (port : Byte) (d : Byte)
  /-- `CONSTRUCT cfg` (R270). -/
  | construct (cfg : Cfg)
  /-- `POLL t` (R160). -/
  | poll (t : Time)
  /-- `SETQUIT` (R163). -/
  | setquit
  /-- `REQLOAD` (R164). -/
  | reqload
  /-- `REQSAVE` (R165). -/
  | reqsave
  /-- `DEQUEUE` (R184). -/
  | dequeue
  /-- `RETURN k` (R185). -/
  | giveBack (k : Nat)
  /-- `BLIT` with `MODE` = 0 (R202). -/
  | blitNative (dst : DstBuf) (src : Source) (stride : Nat)
  /-- `BLIT` with `MODE` = 1 (R203). -/
  | blitRgb332 (dst : DstBuf) (src : Source) (stride : Nat)
  /-- `BLIT` with `MODE` = 2 (R205). -/
  | blitUpright (dst : DstBuf) (src : Source) (stride : Nat)
  /-- `BLIT` with `MODE` = 3 (R206). -/
  | blitUpright8bpp (dst : DstBuf) (src : Source) (stride : Nat)
  /-- `SNAPSHOT`, the internal step of POLL (R181). -/
  | snapshot
deriving DecidableEq, Repr

/-- The outside agents (spec/00_scope.md rule R8). -/
inductive Agent where
  | emu
  | host
  | builder
deriving DecidableEq, Repr

/-- The agent that performs each operation (the table of rule R90). The block does not check it
(spec/60_exceptions.md rule R243). -/
def Instr.agent : Instr → Agent
  | .in0 | .in1 | .in2 | .in3 | .in6 | .inUnmapped _ => .emu
  | .out2 _ | .out3 _ | .out4 _ | .out5 _ | .out6 _ | .outUnmapped _ _ => .emu
  | .poll _ | .snapshot => .emu
  | .setquit | .reqload | .reqsave | .dequeue | .giveBack _ => .host
  | .blitNative _ _ _ | .blitRgb332 _ _ _ | .blitUpright _ _ _ | .blitUpright8bpp _ _ _ => .host
  | .construct _ => .builder

/-- The port reads (spec/40_port_reads.md). -/
def Instr.isRead : Instr → Bool
  | .in0 | .in1 | .in2 | .in3 | .in6 | .inUnmapped _ => true
  | .out2 _ | .out3 _ | .out4 _ | .out5 _ | .out6 _ | .outUnmapped _ _ => false
  | .poll _ | .snapshot | .setquit | .reqload | .reqsave | .dequeue | .giveBack _ | .construct _ => false
  | .blitNative _ _ _ | .blitRgb332 _ _ _ | .blitUpright _ _ _ | .blitUpright8bpp _ _ _ => false

/-- The port writes (spec/41_port_writes.md). -/
def Instr.isWrite : Instr → Bool
  | .out2 _ | .out3 _ | .out4 _ | .out5 _ | .out6 _ | .outUnmapped _ _ => true
  | .in0 | .in1 | .in2 | .in3 | .in6 | .inUnmapped _ => false
  | .poll _ | .snapshot | .setquit | .reqload | .reqsave | .dequeue | .giveBack _ | .construct _ => false
  | .blitNative _ _ _ | .blitRgb332 _ _ _ | .blitUpright _ _ _ | .blitUpright8bpp _ _ _ => false

/-- BLIT in any of its four modes (spec/44_video_blitter.md). -/
def Instr.isBlit : Instr → Bool
  | .blitNative _ _ _ | .blitRgb332 _ _ _ | .blitUpright _ _ _ | .blitUpright8bpp _ _ _ => true
  | .in0 | .in1 | .in2 | .in3 | .in6 | .inUnmapped _ => false
  | .out2 _ | .out3 _ | .out4 _ | .out5 _ | .out6 _ | .outUnmapped _ _ => false
  | .poll _ | .snapshot | .setquit | .reqload | .reqsave | .dequeue | .giveBack _ | .construct _ => false

/-- SNAPSHOT, the one operation performed only inside another (rule R90: not callable from outside). -/
def Instr.isInternal : Instr → Bool
  | .snapshot => true
  | .in0 | .in1 | .in2 | .in3 | .in6 | .inUnmapped _ => false
  | .out2 _ | .out3 _ | .out4 _ | .out5 _ | .out6 _ | .outUnmapped _ _ => false
  | .poll _ | .setquit | .reqload | .reqsave | .dequeue | .giveBack _ | .construct _ => false
  | .blitNative _ _ _ | .blitRgb332 _ _ _ | .blitUpright _ _ _ | .blitUpright8bpp _ _ _ => false

/-- CONSTRUCT, the only reset (spec/10_state.md rule R40). -/
def Instr.isConstruct : Instr → Bool
  | .construct _ => true
  | .in0 | .in1 | .in2 | .in3 | .in6 | .inUnmapped _ => false
  | .out2 _ | .out3 _ | .out4 _ | .out5 _ | .out6 _ | .outUnmapped _ _ => false
  | .poll _ | .snapshot | .setquit | .reqload | .reqsave | .dequeue | .giveBack _ => false
  | .blitNative _ _ _ | .blitRgb332 _ _ _ | .blitUpright _ _ _ | .blitUpright8bpp _ _ _ => false

end Sys2Proof
end

