-- ==== Sys2Proof/WellFormed.lean ====
section
/-! DEFINITION. Which instruction terms are operations of the block: a default row of the decoder stands for unmapped ports
only (spec/30_encoding.md rules R90, R91, R106). Every other operand value is allowed. -/

namespace Sys2Proof

/-- The ports mapped for reading (spec/20_memory.md rule R62). -/
def mappedRead (p : Byte) : Bool := p == 0 || p == 1 || p == 2 || p == 3 || p == 6

/-- The ports mapped for writing (spec/20_memory.md rule R62). -/
def mappedWrite (p : Byte) : Bool := p == 2 || p == 3 || p == 4 || p == 5 || p == 6

/-- The instruction is one the decoder can produce. -/
def Instr.wellFormed : Instr → Bool
  | .inUnmapped p => !mappedRead p
  | .outUnmapped p _ => !mappedWrite p
  | .in0 | .in1 | .in2 | .in3 | .in6 => true
  | .out2 _ | .out3 _ | .out4 _ | .out5 _ | .out6 _ => true
  | .construct _ | .poll _ | .setquit | .reqload | .reqsave | .dequeue | .giveBack _ | .snapshot => true
  | .blitNative _ _ _ | .blitRgb332 _ _ _ | .blitUpright _ _ _ | .blitUpright8bpp _ _ _ => true

end Sys2Proof
end

