-- ==== Sys2Proof/Decode.lean ====
section
/-! DEFINITION. How an operation is presented to the block, and the decoder and encoder of the two formats PT and HC
(spec/30_encoding.md rules R91, R92, R107, R108). The selector bytes are the spec's whole encoding; operands travel beside
them (log 4). -/

namespace Sys2Proof

/-- The two formats of rule R90: a port transaction, a host command. -/
inductive Format where
  | pt
  | hc
deriving DecidableEq, Repr

/-- The operand lines presented beside the selector (the operands column of rule R90). An operation reads the ones it has
and ignores the rest. -/
structure Operands where
  data : Byte
  time : Time
  index : Nat
  cfg : Cfg
  dst : DstBuf
  src : Source
  stride : Nat
deriving DecidableEq, Repr

/-- Every operand line zero or empty. -/
def Operands.zero : Operands where
  data := 0
  time := 0
  index := 0
  cfg := ⟨0, "", "", 0⟩
  dst := ⟨0, 0⟩
  src := .frame 0
  stride := 0

/-- One operation as an agent presents it: its format, the bytes of its selector (PT: port, then `dir`; HC: the command
word) and the operand lines. -/
structure Presented where
  format : Format
  selector : List Byte
  operands : Operands
deriving DecidableEq, Repr

/-- Why the decoder rejects a presentation. -/
inductive DecodeError where
  /-- The bytes are not one 9-bit selector (PT) or one command word (HC). -/
  | malformedSelector
  /-- The command word is not in rule R92 (rule R107). -/
  | notAnOperation (cmd : Byte)
deriving DecidableEq, Repr

/-- The operation a port-transaction selector names (rules R91, R108): exact rows first, then the default row of the same
direction. -/
def decodePort (sel : Selector) (ops : Operands) : Instr :=
  let port : Byte := sel.truncate 8
  if sel.getLsbD 8 then
    if port = 2 then .out2 ops.data
    else if port = 3 then .out3 ops.data
    else if port = 4 then .out4 ops.data
    else if port = 5 then .out5 ops.data
    else if port = 6 then .out6 ops.data
    else .outUnmapped port ops.data
  else
    if port = 0 then .in0
    else if port = 1 then .in1
    else if port = 2 then .in2
    else if port = 3 then .in3
    else if port = 6 then .in6
    else .inUnmapped port

/-- The operation a host command word names (rule R92); a word not in the table is no operation (rule R107). -/
def decodeHost (cmd : Byte) (ops : Operands) : Except DecodeError Instr :=
  if cmd = 0x00 then .ok (.construct ops.cfg)
  else if cmd = 0x10 then .ok (.poll ops.time)
  else if cmd = 0x20 then .ok .setquit
  else if cmd = 0x30 then .ok .reqload
  else if cmd = 0x40 then .ok .reqsave
  else if cmd = 0x50 then .ok .dequeue
  else if cmd = 0x60 then .ok (.giveBack ops.index)
  else if cmd = 0x70 then .ok (.blitNative ops.dst ops.src ops.stride)
  else if cmd = 0x71 then .ok (.blitRgb332 ops.dst ops.src ops.stride)
  else if cmd = 0x72 then .ok (.blitUpright ops.dst ops.src ops.stride)
  else if cmd = 0x73 then .ok (.blitUpright8bpp ops.dst ops.src ops.stride)
  else if cmd = 0xF0 then .ok .snapshot
  else .error (.notAnOperation cmd)

/-- The decoder, total on any bytes. A port transaction's selector is two bytes, the port first, and the second byte's seven
upper bits lie outside the 9-bit selector: they must be 0 (log 4). -/
def decode (p : Presented) : Except DecodeError Instr :=
  match p.format, p.selector with
  | .pt, [port, dir] =>
    if dir = 0 then .ok (decodePort ((0 : BitVec 1) ++ port) p.operands)
    else if dir = 1 then .ok (decodePort ((1 : BitVec 1) ++ port) p.operands)
    else .error .malformedSelector
  | .hc, [cmd] => decodeHost cmd p.operands
  | .pt, _ => .error .malformedSelector
  | .hc, _ => .error .malformedSelector

/-! ## The encoder, from the same tables -/

/-- A read of `port` (rule R91, `dir` = 0). -/
def presentRead (port : Byte) : Presented := ⟨.pt, [port, 0], Operands.zero⟩

/-- A write of `d` to `port` (rule R91, `dir` = 1). -/
def presentWrite (port d : Byte) : Presented := ⟨.pt, [port, 1], { Operands.zero with data := d }⟩

/-- A host command with the given operand lines (rule R92). -/
def presentCommand (cmd : Byte) (ops : Operands) : Presented := ⟨.hc, [cmd], ops⟩

/-- The operand lines of a BLIT. -/
def blitOperands (dst : DstBuf) (src : Source) (stride : Nat) : Operands :=
  { Operands.zero with dst := dst, src := src, stride := stride }

/-- The presentation of an instruction. -/
def encode : Instr → Presented
  | .in0 => presentRead 0
  | .in1 => presentRead 1
  | .in2 => presentRead 2
  | .in3 => presentRead 3
  | .in6 => presentRead 6
  | .inUnmapped p => presentRead p
  | .out2 d => presentWrite 2 d
  | .out3 d => presentWrite 3 d
  | .out4 d => presentWrite 4 d
  | .out5 d => presentWrite 5 d
  | .out6 d => presentWrite 6 d
  | .outUnmapped p d => presentWrite p d
  | .construct cfg => presentCommand 0x00 { Operands.zero with cfg := cfg }
  | .poll t => presentCommand 0x10 { Operands.zero with time := t }
  | .setquit => presentCommand 0x20 Operands.zero
  | .reqload => presentCommand 0x30 Operands.zero
  | .reqsave => presentCommand 0x40 Operands.zero
  | .dequeue => presentCommand 0x50 Operands.zero
  | .giveBack k => presentCommand 0x60 { Operands.zero with index := k }
  | .blitNative dst src stride => presentCommand 0x70 (blitOperands dst src stride)
  | .blitRgb332 dst src stride => presentCommand 0x71 (blitOperands dst src stride)
  | .blitUpright dst src stride => presentCommand 0x72 (blitOperands dst src stride)
  | .blitUpright8bpp dst src stride => presentCommand 0x73 (blitOperands dst src stride)
  | .snapshot => presentCommand 0xF0 Operands.zero

/-- The presentation whose selector, numbered as spec/opcode_table.json numbers its bits, is `w`: rows of up to 8 bits are
host command words, longer rows are port-transaction selectors (two bytes, low byte first). The operand lines are zero. -/
def presentedOfWord (nbits w : Nat) : Presented :=
  if nbits ≤ 8 then ⟨.hc, [BitVec.ofNat 8 w], Operands.zero⟩
  else ⟨.pt, [BitVec.ofNat 8 w, BitVec.ofNat 8 (w / 256)], Operands.zero⟩

/-- What the decoder reads from the table word `w` of `nbits` bits. -/
def decodeTableWord (nbits w : Nat) : Option Instr :=
  match decode (presentedOfWord nbits w) with
  | .ok i => some i
  | .error _ => none

/-! ## Every constructor, read from a word written out from the spec's tables (rules R91, R92) -/

theorem decodes_in0 : decodeTableWord 16 0x000 = some .in0 := by decide
theorem decodes_in1 : decodeTableWord 16 0x001 = some .in1 := by decide
theorem decodes_in2 : decodeTableWord 16 0x002 = some .in2 := by decide
theorem decodes_in3 : decodeTableWord 16 0x003 = some .in3 := by decide
theorem decodes_in6 : decodeTableWord 16 0x006 = some .in6 := by decide
theorem decodes_inUnmapped : decodeTableWord 16 0x083 = some (.inUnmapped 0x83) := by decide
theorem decodes_out2 : decode ⟨.pt, [0x02, 0x01], { Operands.zero with data := 0xFB }⟩ = .ok (.out2 0xFB) := by rfl
theorem decodes_out3 : decode ⟨.pt, [0x03, 0x01], { Operands.zero with data := 0x3F }⟩ = .ok (.out3 0x3F) := by rfl
theorem decodes_out4 : decode ⟨.pt, [0x04, 0x01], { Operands.zero with data := 0xCD }⟩ = .ok (.out4 0xCD) := by rfl
theorem decodes_out5 : decode ⟨.pt, [0x05, 0x01], { Operands.zero with data := 0x1F }⟩ = .ok (.out5 0x1F) := by rfl
theorem decodes_out6 : decode ⟨.pt, [0x06, 0x01], { Operands.zero with data := 0xFF }⟩ = .ok (.out6 0xFF) := by rfl
theorem decodes_outUnmapped :
    decode ⟨.pt, [0x84, 0x01], { Operands.zero with data := 0x55 }⟩ = .ok (.outUnmapped 0x84 0x55) := by rfl
theorem decodes_construct :
    decode ⟨.hc, [0x00], { Operands.zero with cfg := ⟨8, "cocktail", "green", 2⟩ }⟩
      = .ok (.construct ⟨8, "cocktail", "green", 2⟩) := by rfl
theorem decodes_poll : decode ⟨.hc, [0x10], { Operands.zero with time := 100 }⟩ = .ok (.poll 100) := by rfl
theorem decodes_setquit : decodeTableWord 8 0x20 = some .setquit := by decide
theorem decodes_reqload : decodeTableWord 8 0x30 = some .reqload := by decide
theorem decodes_reqsave : decodeTableWord 8 0x40 = some .reqsave := by decide
theorem decodes_dequeue : decodeTableWord 8 0x50 = some .dequeue := by decide
theorem decodes_giveBack : decode ⟨.hc, [0x60], { Operands.zero with index := 1 }⟩ = .ok (.giveBack 1) := by rfl
theorem decodes_blitNative :
    decode ⟨.hc, [0x70], blitOperands ⟨64, 7168⟩ (.host 9000) 5⟩ = .ok (.blitNative ⟨64, 7168⟩ (.host 9000) 5) := by rfl
theorem decodes_blitRgb332 :
    decode ⟨.hc, [0x71], blitOperands ⟨0, 57344⟩ (.frame 1) 224⟩ = .ok (.blitRgb332 ⟨0, 57344⟩ (.frame 1) 224) := by rfl
theorem decodes_blitUpright :
    decode ⟨.hc, [0x72], blitOperands ⟨0, 7168⟩ (.frame 0) 28⟩ = .ok (.blitUpright ⟨0, 7168⟩ (.frame 0) 28) := by rfl
theorem decodes_blitUpright8bpp :
    decode ⟨.hc, [0x73], blitOperands ⟨0, 57344⟩ (.frame 2) 0⟩ = .ok (.blitUpright8bpp ⟨0, 57344⟩ (.frame 2) 0) := by rfl
theorem decodes_snapshot : decodeTableWord 8 0xF0 = some .snapshot := by decide

end Sys2Proof
end

