-- ==== Sys2Proof/Machine/Defaults.lean ====
section
/-! DEFINITION. The default values of the spec's open parameters (spec/00_scope.md rule R5, spec/92_eei_decisions.md
section 8; log 6). -/

namespace Sys2Proof

/-- The default `INPUT_MAP` (spec/30_encoding.md rules R97, R98, R99; decision D13). -/
def InputMap.default : InputMap where
  port0 := ⟨.line .dip4Selftest, .fixed true, .fixed true, .fixed true, .line .p0Fire, .line .p0Left, .line .p0Right, .fixed false⟩
  port1 := ⟨.line .credit, .line .p2Start, .line .p1Start, .fixed true, .line .p1Fire, .line .p1Left, .line .p1Right, .fixed false⟩
  port2 := ⟨.line .dip3ShipsLo, .line .dip5ShipsHi, .line .tilt, .line .dip6ExtraShip, .line .p2Fire, .line .p2Left, .line .p2Right, .line .dip7CoinInfo⟩

/-- The defaults of rule R5 and of spec/92_eei_decisions.md section 8. -/
def Params.default : Params where
  resetShift := 0
  resetShamt := 0
  resetPrevA := 0
  resetPrevB := 0
  frameIrq := .two
  inputMap := InputMap.default
  edgeLines := LineBits.none
  upright8 := .linear
  colourNames := []

end Sys2Proof
end

