-- ==== Sys2Proof/Machine/Memory.lean ====
section
/-! DEFINITION. Byte memories as sorted lists of (address, byte) pairs: the Memory Store, the frame buffers and HOST's memory
(spec/20_memory.md rule R60). An unlisted address reads 0x00 (log 8). Byte by byte only: no operation is wider than one byte
(rules R67, R68). -/

namespace Sys2Proof.Machine

/-- A byte memory. -/
abbrev Memory := List Host.Cell

/-- What an unlisted address reads as (log 8). -/
def unlistedByte : Byte := 0x00

/-- The byte at address `a`. -/
def Memory.read : Memory → Nat → Byte
  | [], _ => unlistedByte
  | c :: rest, a => if c.1 = a then c.2 else Memory.read rest a

/-- The canonical form: addresses strictly rising, no entry equal to what an unlisted address reads as. -/
abbrev Memory.wf (m : Memory) : Prop :=
  List.Pairwise (fun c e : Host.Cell => c.1 < e.1) m ∧ ∀ c ∈ m, c.2 ≠ unlistedByte

/-- A cell put before the first cell of a higher address. -/
def Memory.insert : Memory → Host.Cell → Memory
  | [], c => [c]
  | e :: rest, c => if c.1 < e.1 then c :: e :: rest else e :: Memory.insert rest c

/-- Every cell whose address satisfies `p` made to read 0x00. -/
def Memory.clear (m : Memory) (p : Nat → Bool) : Memory :=
  m.filter fun c => !p c.1

/-- The byte at address `a` replaced by `v`. -/
def Memory.write (m : Memory) (a : Nat) (v : Byte) : Memory :=
  let rest := Memory.clear m fun x => x == a
  if v = unlistedByte then rest else Memory.insert rest (a, v)

/-- The `len` bytes from address `base`, as a memory of their own, its addresses counted from 0. -/
def Memory.slice (m : Memory) (base len : Nat) : Memory :=
  (m.filter fun c => decide (base ≤ c.1) && decide (c.1 < base + len)).map fun c => (c.1 - base, c.2)

/-- The bits of `c.2` set in the byte at address `base + c.1`. -/
def Memory.mark (base : Nat) (m : Memory) (c : Host.Cell) : Memory :=
  Memory.write m (base + c.1) (Memory.read m (base + c.1) ||| c.2)

/-- A picture written at `base`: every offset satisfying `written` becomes 0x00, then the bits of each mark (an offset and
the bits set there) are set. -/
def Memory.paint (m : Memory) (base : Nat) (written : Nat → Bool) (marks : List Host.Cell) : Memory :=
  marks.foldl (Memory.mark base) (Memory.clear m fun a => decide (base ≤ a) && written (a - base))

end Sys2Proof.Machine
end

