-- ==== Sys2Proof/Machine/Device.lean ====
section
/-! DEFINITION. The registers of a constructed device (spec/10_state.md rules R20 to R35) and their reset values (rule R39). -/

namespace Sys2Proof.Machine

/-- The load or save request `LSREQ` (spec/10_state.md rule R28). -/
inductive LsReq where
  | none
  | load
  | save
deriving DecidableEq, Repr

/-- The owner of a frame buffer (spec/10_state.md rule R32). -/
inductive Owner where
  | free
  | queued
  | held
deriving DecidableEq, Repr

/-- One frame buffer: `OWNER[k]` and the 7168 bytes `F[k]` (spec/10_state.md rule R32). -/
structure FrameBuffer where
  owner : Owner
  bytes : Memory
deriving DecidableEq, Repr

/-- The registers of the block. `POOL_N` is the number of buffers (`Device.poolN`). -/
structure Device where
  /-- `SHIFT` (R20). -/
  shift : Half
  /-- `SHAMT` (R21). -/
  shamt : BitVec 3
  /-- `PREVA` (R22). -/
  prevA : Byte
  /-- `PREVB` (R23). -/
  prevB : Byte
  /-- `NEXT` (R25). -/
  next : RasterIrq
  /-- `LAST_T`, `none` standing for `NEVER` (R26). -/
  lastT : Option Time
  /-- `QUIT` (R27). -/
  quit : Bool
  /-- `LSREQ` (R28). -/
  lsreq : LsReq
  /-- `DROPS` (R29). -/
  drops : Nat
  /-- `VIOL_RD` (R30). -/
  violRd : Bool
  /-- `VIOL_WR` (R30). -/
  violWr : Bool
  /-- `VIOL_MODE` (R30). -/
  violMode : Bool
  /-- `MODE` = `{upright, deep}` (R31, R104). -/
  mode : BitVec 2
  /-- `COLOUR` (R31, R105). -/
  colour : Byte
  /-- `F[k]` and `OWNER[k]` (R32). -/
  buffers : List FrameBuffer
  /-- `QUEUE`, head first (R33). -/
  queue : List Nat
  /-- `EDGE_PREV` (R35). -/
  edgePrev : LineBits
deriving DecidableEq, Repr

/-- `POOL_N`, the number of frame buffers (spec/10_state.md rule R31; log 20). -/
def Device.poolN (d : Device) : Nat := d.buffers.length

/-- The device right after a successful CONSTRUCT (spec/10_state.md rule R39). The contents of the frame buffers are
unspecified there: DESIGN CHOICE 0x00, log 9. -/
def Device.fresh (p : Params) (mode : BitVec 2) (colour : Byte) (poolN : Nat) : Device where
  shift := p.resetShift
  shamt := p.resetShamt
  prevA := p.resetPrevA
  prevB := p.resetPrevB
  next := .one
  lastT := none
  quit := false
  lsreq := .none
  drops := 0
  violRd := false
  violWr := false
  violMode := false
  mode := mode
  colour := colour
  buffers := List.replicate poolN ⟨.free, []⟩
  queue := []
  edgePrev := LineBits.none

end Sys2Proof.Machine
end

