-- ==== Sys2Proof/Machine/State.lean ====
section
/-! DEFINITION. The state of the machine: the device, the environment its operations read and write (Memory Store, input
lines, HOST's memory), the open parameters, and the model's own schedule and answer; the outcomes of a step; reset. -/

namespace Sys2Proof.Machine

/-- The value POLL returns (spec/30_encoding.md rule R103). -/
inductive Isr where
  | one
  | two
  | load
  | save
  | quit
  | none
deriving DecidableEq, Repr

/-- The kinds of `ConfigError` (spec/70_reset_and_hazards.md rule R271). -/
inductive ConfigError where
  | colour
  | bpp
  | orient
  | pool
deriving DecidableEq, Repr

/-- The kinds of `Violation` (spec/60_exceptions.md rule R231). -/
inductive Violation where
  | rd
  | wr
  | mode
deriving DecidableEq, Repr

/-- Why an operation has no step in the state given: the spec's `refuse` (spec/00_scope.md rule R7; log 2). -/
inductive NoStep where
  /-- No device exists (spec/70_reset_and_hazards.md rule R273). -/
  | noDevice
  /-- SNAPSHOT while no firing POLL has reached it: it is not callable from outside (spec/30_encoding.md rule R90,
  spec/43_frame_pool.md rule R180). -/
  | insidePollOnly
  /-- DEQUEUE while `QUEUE` is empty: HOST waits (spec/43_frame_pool.md rule R184). -/
  | queueEmpty
  /-- RETURN or BLIT of a buffer that is not `HELD` (rules R185, R200). -/
  | notHeld
  /-- A BLIT word whose `sub` is not the value of `MODE` (spec/30_encoding.md rule R92; log 12). -/
  | subNotMode
  /-- BLIT whose destination overlaps its source (spec/20_memory.md rule R79). -/
  | overlap
  /-- BLIT whose destination buffer or stride is too small (spec/44_video_blitter.md rules R202 to R206). -/
  | tooSmall
deriving DecidableEq, Repr

/-- What a step answers to the agent that performed it: the `return v` of spec/00_scope.md rule R7 (log 3). -/
inductive Result where
  /-- The step was no operation. -/
  | none
  /-- A port read's byte. -/
  | value (v : Byte)
  /-- A port write's trigger mask. -/
  | mask (m : Byte)
  /-- POLL's value. -/
  | isr (r : Isr)
  /-- DEQUEUE's buffer index. -/
  | buffer (k : Nat)
  /-- CONSTRUCT's device. -/
  | device
  /-- CONSTRUCT failed. -/
  | configError (e : ConfigError)
  /-- An operation that returns nothing has completed. -/
  | done
  /-- The operation had no step: the agent made no progress. -/
  | noStep (r : NoStep)
deriving DecidableEq, Repr

/-- One event of the schedule: an operation an agent presents, or a change of the environment, which is no operation of the
block (spec/30_encoding.md rule R111, spec/70_reset_and_hazards.md rule R286; log 22). -/
inductive Event where
  /-- An agent presents an operation. -/
  | operate (p : Presented)
  /-- `LINE id = level`: HOST drives an input line (rules R111, R127). -/
  | line (id : LineId) (level : Bool)
  /-- The game-state predicate `in_play` changes (spec/40_port_reads.md rule R128). -/
  | inPlay (b : Bool)
  /-- The CPU core writes a byte of the Memory Store (spec/20_memory.md rule R63). -/
  | cpuWrite (a : Half) (v : Byte)
  /-- HOST writes a byte of its own memory (rule R286). -/
  | hostWrite (a : Nat) (v : Byte)
deriving DecidableEq, Repr

/-- Why the machine stops with a fault. -/
inductive Fault where
  /-- Raised by `step` when a presented selector is neither a 9-bit port-transaction selector nor one command word; no
  operation of the block is involved. Safe: the hardware's interface cannot carry such a selector (log 24). -/
  | malformedSelector
deriving DecidableEq, Repr

/-- Why the machine gives no meaning. -/
inductive Refusal where
  /-- Raised by `exec`'s arm of an instruction not modelled yet; no arm raises it. Safe. -/
  | notModelled (mnemonic : String)
  /-- Raised by `step` for a command word that is not an operation of the block (spec/30_encoding.md rule R107). Safe: the spec
  says a model's decoder refuses it (log 24). -/
  | notAnOperation (cmd : Byte)
deriving DecidableEq, Repr

/-- The state of the machine. -/
structure State where
  /-- The device and its registers, or `none` where no device exists (spec/70_reset_and_hazards.md rules R270, R271). -/
  dev : Option Device
  /-- `MEM`, the Memory Store (spec/10_state.md rule R34). -/
  mem : Memory
  /-- `Line(id)`, the present levels of the input lines (spec/10_state.md rule R35). -/
  lines : LineBits
  /-- `in_play`, the game-state predicate (spec/40_port_reads.md rule R128). -/
  inPlay : Bool
  /-- HOST's memory, where the destination buffers of BLIT lie (spec/20_memory.md rule R79). -/
  hostMem : Memory
  /-- The open parameters (spec/00_scope.md rule R5); no step writes them (log 6). -/
  params : Params
  /-- MODEL: a firing POLL that returns `FRAME_IRQ` is under way and has reached its SNAPSHOT (spec/43_frame_pool.md rule R180);
  false between steps, POLL being one step (log 13). -/
  inPoll : Bool
  /-- MODEL: index of the next free value of colour "random" (log 10). -/
  draws : Nat
  /-- MODEL: what the agents will present next, first event first (log 1). -/
  schedule : List Event
  /-- MODEL: what the latest step answered (log 3). -/
  result : Result
deriving DecidableEq, Repr

/-- The machine right after its only reset, a successful CONSTRUCT (spec/10_state.md rule R39), here of
`{8, "cocktail", "green", 2}`, the configuration of rule R270's example (DESIGN CHOICE, log 5). -/
def State.reset : State where
  dev := some (Device.fresh Params.default 1 0x14 2)
  mem := []
  lines := LineBits.none
  inPlay := true
  hostMem := []
  params := Params.default
  inPoll := false
  draws := 0
  schedule := []
  result := .none

end Sys2Proof.Machine
end

