-- ==== Sys2Proof/Machine/Ops.lean ====
section
/-! DEFINITION. The operations every meaning shares: how an operation answers, how it is refused, how a violation is raised
(the block's only exceptional event: it takes no trap, spec/60_exceptions.md rules R230, R231), how a buffer changes owner, and
what an event of the environment does. -/

namespace Sys2Proof.Machine

/-- What a step of the machine answers. -/
abbrev Answer := Host.Outcome State Fault Refusal

/-- `refuse` (spec/00_scope.md rule R7): the operation has no step, the agent that tried it makes no progress, nothing
changes (log 2). -/
def State.refuse (s : State) (r : NoStep) : Answer :=
  .next { s with result := .noStep r }

/-- The operation completes with the device `d` and the answer `r`. -/
def State.finish (s : State) (d : Device) (r : Result) : Answer :=
  .next { s with dev := some d, result := r }

/-- The same outcome with the answer `r`. -/
def answering (r : Result) : Answer → Answer
  | .next t => .next { t with result := r }
  | .fault f => .fault f
  | .refused x => .refused x

/-- An operation of a constructed device: before a successful CONSTRUCT and after a failed one no operation exists
(spec/70_reset_and_hazards.md rules R270, R273). -/
def State.onDevice (s : State) (f : Device → Answer) : Answer :=
  match s.dev with
  | none => s.refuse .noDevice
  | some d => f d

/-- `raise Violation(kind)`: the sticky flag of that kind is set (spec/00_scope.md rule R7, spec/60_exceptions.md rule R231). -/
def Device.raise (d : Device) : Violation → Device
  | .rd => { d with violRd := true }
  | .wr => { d with violWr := true }
  | .mode => { d with violMode := true }

/-- Does `OWNER[k]` exist and equal `o`? -/
def Device.owns (d : Device) (k : Nat) (o : Owner) : Bool :=
  match d.buffers[k]? with
  | some b => b.owner == o
  | none => false

/-- `OWNER[k] <- o`. -/
def Device.setOwner (d : Device) (k : Nat) (o : Owner) : Device :=
  { d with buffers := d.buffers.modify k fun b => { b with owner := o } }

/-- The codes of POLL's values (spec/30_encoding.md rule R103). -/
def Isr.code : Isr → Nat
  | .one => 1
  | .two => 2
  | .load => 8
  | .save => 9
  | .quit => 10
  | .none => 11

/-- The codes of the configuration errors (spec/70_reset_and_hazards.md rule R271). -/
def ConfigError.code : ConfigError → Nat
  | .colour => 1
  | .bpp => 2
  | .orient => 3
  | .pool => 4

/-- The codes of the violations (spec/60_exceptions.md rule R231). -/
def Violation.code : Violation → Nat
  | .rd => 1
  | .wr => 2
  | .mode => 3

/-- What an event of the environment does; an operation has no effect here. -/
def State.environment (s : State) : Event → State
  | .operate _ => s
  | .line id level => { s with lines := s.lines.set id level, result := .none }
  | .inPlay b => { s with inPlay := b, result := .none }
  | .cpuWrite a v => { s with mem := Memory.write s.mem a.toNat v, result := .none }
  | .hostWrite a v => { s with hostMem := Memory.write s.hostMem a v, result := .none }

/-- The first event of the schedule is taken off it. -/
def State.advance (s : State) (rest : List Event) : State :=
  { s with schedule := rest }

/-- No agent acts: nothing changes (spec/00_scope.md rule R9: between operations the state does not change; log 23). -/
def State.idle (s : State) : State :=
  { s with result := .none }

/-- A presentation put first on the schedule, so that the very next step performs it (log 1). -/
def State.present (s : State) (p : Presented) : State :=
  { s with schedule := .operate p :: s.schedule }

end Sys2Proof.Machine
end

