-- ==== Sys2Proof/Machine/Operands.lean ====
section
/-! DEFINITION. Operand assembly (spec/30_encoding.md rule R109): the shift amount and data, the read window, the sample index,
the bytes of the input ports with their two sampling policies, the colour operand of CONSTRUCT, the pixels and buffers of
BLIT. -/

namespace Sys2Proof.Machine

/-! ## The shift register (rules R93, R94, R100) -/

/-- OUT 2: `amount = d & 0x07` (rule R93). -/
def shiftAmount (d : Byte) : BitVec 3 := d.extractLsb' 0 3

/-- OUT 4: `{ d, SHIFT[15:8] }` (spec/41_port_writes.md rule R143). -/
def shiftIn (shift : Half) (d : Byte) : Half := d ++ shift.extractLsb' 8 8

/-- IN 3: `(SHIFT >> (8 - SHAMT))[7:0]`, a logical shift of the 16-bit register (spec/40_port_reads.md rule R123). -/
def shiftWindow (shift : Half) (shamt : BitVec 3) : Byte :=
  (shift >>> (8 - shamt.toNat)).extractLsb' 0 8

/-- The caller's step from a bank's trigger bit to a sample: `((p - 3) << 2) + i` (rule R102). -/
def sampleIndex (port i : Nat) : Nat := ((port - 3) <<< 2) + i

/-! ## The input ports (rules R97 to R99, R127, R128) -/

/-- A byte from its bits, bit 0 first. -/
def byteOfBits (b0 b1 b2 b3 b4 b5 b6 b7 : Bool) : Byte :=
  BitVec.ofNat 8 (b0.toNat + 2 * b1.toNat + 4 * b2.toNat + 8 * b3.toNat + 16 * b4.toNat + 32 * b5.toNat + 64 * b6.toNat
    + 128 * b7.toNat)

/-- `Sample(id)` (spec/40_port_reads.md rules R127, R128): the level for a line outside `EDGE_LINES` or while `in_play`, else
a press since the last sampling; `EDGE_PREV` of a line in `EDGE_LINES` is updated under both policies. -/
def State.sampleLine (s : State) (id : LineId) (prev : LineBits) : Bool × LineBits :=
  let cur := s.lines.get id
  if s.params.edgeLines.get id then
    (if s.inPlay then cur else cur && !prev.get id, prev.set id cur)
  else (cur, prev)

/-- One bit of an input port: a fixed level does not pass through `Sample` (rule R127). -/
def State.sampleSource (s : State) (src : BitSource) (prev : LineBits) : Bool × LineBits :=
  match src with
  | .fixed level => (level, prev)
  | .line id => s.sampleLine id prev

/-- The byte of an input port and the new `EDGE_PREV`, the bits sampled from bit 0 to bit 7 as the rules list them
(spec/40_port_reads.md rules R120 to R122). -/
def State.samplePort (s : State) (pm : PortMap) (prev : LineBits) : Byte × LineBits :=
  let x0 := s.sampleSource pm.b0 prev
  let x1 := s.sampleSource pm.b1 x0.2
  let x2 := s.sampleSource pm.b2 x1.2
  let x3 := s.sampleSource pm.b3 x2.2
  let x4 := s.sampleSource pm.b4 x3.2
  let x5 := s.sampleSource pm.b5 x4.2
  let x6 := s.sampleSource pm.b6 x5.2
  let x7 := s.sampleSource pm.b7 x6.2
  (byteOfBits x0.1 x1.1 x2.1 x3.1 x4.1 x5.1 x6.1 x7.1, x7.2)

/-- Port 0's map with bits 3:1 hard-wired high whatever the map says (spec/40_port_reads.md rule R120). -/
def hardwiredPort0 (pm : PortMap) : PortMap :=
  { pm with b1 := .fixed true, b2 := .fixed true, b3 := .fixed true }

/-! ## CONSTRUCT's colour (spec/70_reset_and_hazards.md rule R272) -/

/-- The value of a hexadecimal digit (log 19). -/
def hexDigit (c : Char) : Option Nat :=
  let n := c.toNat
  if 48 ≤ n ∧ n ≤ 57 then some (n - 48)
  else if 65 ≤ n ∧ n ≤ 70 then some (n - 55)
  else if 97 ≤ n ∧ n ≤ 102 then some (n - 87)
  else none

/-- `0x` followed by one or two hexadecimal digits. -/
def hexLiteral : List Char → Option Byte
  | ['0', 'x', a] => (hexDigit a).map fun x => BitVec.ofNat 8 x
  | ['0', 'x', a, b] =>
    match hexDigit a, hexDigit b with
    | some x, some y => some (BitVec.ofNat 8 (16 * x + y))
    | _, _ => none
  | _ => none

/-- A recognized colour name: "green" is 0x14, "purple" is none, any other is looked up in the parameter. -/
def colourName (names : List (String × Byte)) (s : String) : Option Byte :=
  if s = "green" then some 0x14
  else if s = "purple" then none
  else (names.find? fun e => e.1 == s).map fun e => e.2

/-- `ParseColour(s)`: a name, a hex literal, or "random" (any byte, here `drawn`); `none` is `ConfigError(COLOUR)`. -/
def parseColour (names : List (String × Byte)) (drawn : Byte) (s : String) : Option Byte :=
  match colourName names s with
  | some c => some c
  | none =>
    match hexLiteral s.toList with
    | some c => some c
    | none => if s = "random" then some drawn else none

/-! ## BLIT's operands (spec/20_memory.md rules R65, R79, spec/44_video_blitter.md) -/

/-- `px(L, p)`: pixel `p` of source line `L`. -/
def px (src : Memory) (L p : Nat) : Bool :=
  (Memory.read src (srcLineBytes * L + p / 8)).getLsbD (p % 8)

/-- The set pixels `(L, p)` of a frame, in the order of its listed bytes and least significant bit first (rule R65). -/
def setPixels (src : Memory) : List (Nat × Nat) :=
  (src.filter fun c => decide (c.1 < vramLen)).flatMap fun c =>
    ((List.range 8).filter fun b => (Memory.read src c.1).getLsbD b).map fun b =>
      (c.1 / srcLineBytes, 8 * (c.1 % srcLineBytes) + b)

/-- The 7168 source bytes: a frame HOST holds, or a stretch of HOST's memory; none where the frame is not `HELD`
(rule R200). -/
def State.sourceBytes (s : State) (d : Device) : Source → Option Memory
  | .frame k =>
    match d.buffers[k]? with
    | some b => if b.owner = .held then some b.bytes else none
    | none => none
  | .host base => some (Memory.slice s.hostMem base vramLen)

/-- Does the destination overlap the source? Frames are an address space of their own (rule R60), so only a source in
HOST's memory can (log 11). -/
def dstOverlaps (dst : DstBuf) : Source → Bool
  | .frame _ => false
  | .host base => decide (dst.base < base + vramLen) && decide (base < dst.base + dst.size)

/-- The destination holds 7168 bytes (rule R202). -/
def fitsNative (dst : DstBuf) : Bool := decide (vramLen ≤ dst.size)

/-- The destination holds a picture of 256 rows of `row` bytes with pitch `stride` (rules R203, R205). -/
def fitsRows (dst : DstBuf) (row stride : Nat) : Bool :=
  decide (row ≤ stride) && decide (255 * stride + row ≤ dst.size)

/-- The destination holds 57344 bytes (rule R206). -/
def fitsLinear (dst : DstBuf) : Bool := decide (framePixels ≤ dst.size)

end Sys2Proof.Machine
end

