-- ==== Sys2Proof/Machine/Blitter.lean ====
section
/-! DEFINITION. The Video Blitter (spec/44_video_blitter.md rules R200 to R206). Each mode names the destination offsets it
writes, all of them 0x00 first, and the bits that the set source pixels (or, for the plain copy, the source bytes) set there:
a pixel is `bit * COLOUR` (rule R201), so a clear one is 0x00. -/

namespace Sys2Proof.Machine

/-- The offsets of a picture of 256 rows of `row` bytes with pitch `stride`. -/
def inRows (row stride o : Nat) : Bool := decide (o / stride < srcLinePix) && decide (o % stride < row)

/-- `BlitNative`: `dst[o] <- src[o]` (rule R202). -/
def paintNative (m : Memory) (dst : DstBuf) (src : Memory) : Memory :=
  Memory.paint m dst.base (fun o => decide (o < vramLen))
    ((src.filter fun c => decide (c.1 < vramLen)).map fun c => (c.1, Memory.read src c.1))

/-- `BlitRgb332`: `dst[(255 - p) * stride + L] <- px(L, p) * COLOUR` (rule R203). -/
def paintRgb332 (m : Memory) (dst : DstBuf) (src : Memory) (stride : Nat) (colour : Byte) : Memory :=
  Memory.paint m dst.base (inRows srcLines stride)
    ((setPixels src).map fun q => ((255 - q.2) * stride + q.1, colour))

/-- `BlitUpright`: bit `L mod 8` of `dst[(255 - p) * stride + L div 8] <- px(L, p)` (rule R205). -/
def paintUpright (m : Memory) (dst : DstBuf) (src : Memory) (stride : Nat) : Memory :=
  Memory.paint m dst.base (inRows uprightRowBytes stride)
    ((setPixels src).map fun q => ((255 - q.2) * stride + q.1 / 8, 1#8 <<< (q.1 % 8)))

/-- `BlitUpright8`, layout `linear`: `dst[8 * o + b] <- src[o][b] * COLOUR`, pixel `(L, p)` at `256 * L + p` (rule R206). -/
def paintLinear (m : Memory) (dst : DstBuf) (src : Memory) (colour : Byte) : Memory :=
  Memory.paint m dst.base (fun o => decide (o < framePixels))
    ((setPixels src).map fun q => (srcLinePix * q.1 + q.2, colour))

/-- BLIT in the mode `sub` (rule R200): refused where the source is not held, where `sub` is not `MODE` (log 12), where the
destination overlaps the source or is too small (rule R79; log 25); else only HOST's memory changes. -/
def State.blit (s : State) (sub : BitVec 2) (dst : DstBuf) (src : Source) (fits : Bool)
    (paint : Device → Memory → Memory) : Answer :=
  s.onDevice fun d =>
    match s.sourceBytes d src with
    | none => s.refuse .notHeld
    | some bytes =>
      if d.mode ≠ sub then s.refuse .subNotMode
      else if dstOverlaps dst src then s.refuse .overlap
      else if !fits then s.refuse .tooSmall
      else .next { s with hostMem := paint d bytes, result := .done }

/-- `BLIT` with `MODE` = 0 (rule R202). -/
def execBlitNative (dst : DstBuf) (src : Source) (_stride : Nat) (s : State) : Answer :=
  s.blit 0 dst src (fitsNative dst) fun _ bytes => paintNative s.hostMem dst bytes

/-- `BLIT` with `MODE` = 1 (rule R203). -/
def execBlitRgb332 (dst : DstBuf) (src : Source) (stride : Nat) (s : State) : Answer :=
  s.blit 1 dst src (fitsRows dst srcLines stride) fun d bytes => paintRgb332 s.hostMem dst bytes stride d.colour

/-- `BLIT` with `MODE` = 2 (rule R205). -/
def execBlitUpright (dst : DstBuf) (src : Source) (stride : Nat) (s : State) : Answer :=
  s.blit 2 dst src (fitsRows dst uprightRowBytes stride) fun _ bytes => paintUpright s.hostMem dst bytes stride

/-- `BLIT` with `MODE` = 3 (rule R206), in the layout of the parameter `UPRIGHT8_LAYOUT` (decision D21). -/
def execBlitUpright8bpp (dst : DstBuf) (src : Source) (stride : Nat) (s : State) : Answer :=
  match s.params.upright8 with
  | .linear => s.blit 3 dst src (fitsLinear dst) fun d bytes => paintLinear s.hostMem dst bytes d.colour
  | .asRgb332 => s.blit 3 dst src (fitsRows dst srcLines stride) fun d bytes => paintRgb332 s.hostMem dst bytes stride d.colour

end Sys2Proof.Machine
end

