-- ==== Sys2Proof/Machine/Construct.lean ====
section
/-! DEFINITION. CONSTRUCT, the only reset (spec/70_reset_and_hazards.md rules R270 to R272). -/

namespace Sys2Proof.Machine

/-- `MODE <- { orient = "upright", bpp = 8 }` (spec/30_encoding.md rule R104). -/
def modeOf (cfg : Cfg) : BitVec 2 :=
  BitVec.ofBool (cfg.orient == "upright") ++ BitVec.ofBool (cfg.bpp == 8)

/-- The four checks in the order of rule R270, then the device in its reset state. -/
def construct (p : Params) (drawn : Byte) (cfg : Cfg) : Except ConfigError Device :=
  if cfg.bpp ≠ 1 ∧ cfg.bpp ≠ 8 then .error .bpp
  else if cfg.orient ≠ "cocktail" ∧ cfg.orient ≠ "upright" then .error .orient
  else
    match parseColour p.colourNames drawn cfg.colour with
    | none => .error .colour
    | some c =>
      if cfg.pool ≠ 1 ∧ cfg.pool ≠ 2 ∧ cfg.pool ≠ 3 then .error .pool
      else .ok (Device.fresh p (modeOf cfg) c cfg.pool)

/-- `CONSTRUCT cfg` (rules R270, R271): a new device, or no device at all (log 16). Memory Store, input lines and HOST's
memory are not its own (log 15). -/
def execConstruct (cfg : Cfg) (s : State) : Answer :=
  match construct s.params (Config.drawnColour s.draws) cfg with
  | .ok d => .next { s with dev := some d, draws := s.draws + 1, result := .device }
  | .error e => .next { s with dev := none, draws := s.draws + 1, result := .configError e }

end Sys2Proof.Machine
end

