-- ==== Sys2Proof/Machine/FramePool.lean ====
section
/-! DEFINITION. The Frame Pool (spec/43_frame_pool.md rules R181 to R185, R189). -/

namespace Sys2Proof.Machine

/-- The lowest-numbered `FREE` buffer (rule R189; log 14). -/
def Device.firstFree (d : Device) : Option Nat :=
  d.buffers.findIdx? fun b => b.owner == .free

/-- The 7168 bytes of video RAM as a frame: byte `o` is `MEM[0x2400 + o]` (rule R181). -/
def frameOf (mem : Memory) : Memory := Memory.slice mem vramBase vramLen

/-- SNAPSHOT (rules R181, R182): a free buffer is filled and queued, or the snapshot is dropped and counted. -/
def Device.snapshot (d : Device) (mem : Memory) : Device :=
  match d.firstFree with
  | some k => { d with buffers := d.buffers.set k ⟨.queued, frameOf mem⟩, queue := d.queue ++ [k] }
  | none => { d with drops := d.drops + 1 }

/-- The producer's one step, performed only inside a firing POLL that returns `FRAME_IRQ` (rules R180, R181; spec/30_encoding.md
rule R90: not callable from outside; log 13). -/
def State.produce (s : State) : Answer :=
  s.onDevice fun d =>
    if s.inPoll then .next { s with dev := some (d.snapshot s.mem), inPoll := false, result := .done }
    else s.refuse .insidePollOnly

/-- `SNAPSHOT`, the internal step (rule R181). -/
def execSnapshot (s : State) : Answer := s.produce

/-- `DEQUEUE` (rule R184). -/
def execDequeue (s : State) : Answer :=
  s.onDevice fun d =>
    match d.queue with
    | [] => s.refuse .queueEmpty
    | k :: rest => s.finish { d.setOwner k .held with queue := rest } (.buffer k)

/-- `RETURN k` (rule R185). -/
def execGiveBack (k : Nat) (s : State) : Answer :=
  s.onDevice fun d =>
    if d.owns k .held then s.finish (d.setOwner k .free) .done else s.refuse .notHeld

end Sys2Proof.Machine
end

