-- ==== Sys2Proof/Machine/PortRead.lean ====
section
/-! DEFINITION. The port reads (spec/40_port_reads.md rules R120 to R125). -/

namespace Sys2Proof.Machine

/-- A read of an input port wired as `pm`: only `EDGE_PREV` can change. -/
def State.readInput (s : State) (pm : PortMap) : Answer :=
  s.onDevice fun d =>
    let x := s.samplePort pm d.edgePrev
    s.finish { d with edgePrev := x.2 } (.value x.1)

/-- `IN 0` (rule R120). -/
def execIn0 (s : State) : Answer := s.readInput (hardwiredPort0 s.params.inputMap.port0)

/-- `IN 1` (rule R121). -/
def execIn1 (s : State) : Answer := s.readInput s.params.inputMap.port1

/-- `IN 2` (rule R122). -/
def execIn2 (s : State) : Answer := s.readInput s.params.inputMap.port2

/-- `IN 3` (rule R123). -/
def execIn3 (s : State) : Answer :=
  s.onDevice fun d => s.finish d (.value (shiftWindow d.shift d.shamt))

/-- `IN 6`, the watchdog: 0x00, nothing changes (rule R124). -/
def execIn6 (s : State) : Answer :=
  s.onDevice fun d => s.finish d (.value 0x00)

/-- `IN p` of an unmapped port: 0x00 and `Violation(RD)`; the port number is not recorded (rule R125). -/
def execInUnmapped (_port : Byte) (s : State) : Answer :=
  s.onDevice fun d => s.finish (d.raise .rd) (.value 0x00)

end Sys2Proof.Machine
end

