-- ==== Sys2Proof/Machine/Flags.lean ====
section
/-! DEFINITION. The flag computations: the trigger masks of the two sound ports (spec/41_port_writes.md rules R140, R142,
R144) and the test whether a poll fires (spec/42_interrupt_scheduler.md rules R160, R170). -/

namespace Sys2Proof.Machine

/-- `Rise(d, prev) = d & ~prev` (rule R140). -/
def rise (d prev : Byte) : Byte := d &&& ~~~prev

/-- The source's form of the edge test of one bit: `(d & mask) > (prev & mask)`, unsigned, `mask = 1 << i` (rule R140). -/
def riseByComparison (d prev : Byte) (i : Nat) : Bool :=
  decide ((prev &&& (1#8 <<< i)) < (d &&& (1#8 <<< i)))

/-- Bank A: `m = ((d & ~PREVA) & 0xFE) | ((d | PREVA) & 0x01)` (rule R142). -/
def triggerA (d prev : Byte) : Byte := (rise d prev &&& 0xFE#8) ||| ((d ||| prev) &&& 0x01#8)

/-- Bank B: all eight bits by strict rising edge (rule R144). -/
def triggerB (d prev : Byte) : Byte := rise d prev

/-- `LAST_T = NEVER or t ≠ LAST_T` (rule R160). -/
def Device.fires (d : Device) (t : Time) : Bool :=
  match d.lastT with
  | none => true
  | some u => decide (t ≠ u)

/-- The other of the two raster values. -/
def flipIrq : RasterIrq → RasterIrq
  | .one => .two
  | .two => .one

/-- A raster value as POLL returns it. -/
def rasterIsr : RasterIrq → Isr
  | .one => .one
  | .two => .two

end Sys2Proof.Machine
end

