-- ==== Sys2Proof/Machine/PortWrite.lean ====
section
/-! DEFINITION. The port writes (spec/41_port_writes.md rules R141 to R146). -/

namespace Sys2Proof.Machine

/-- `OUT 2, d`: the shift amount (rule R141). -/
def execOut2 (d : Byte) (s : State) : Answer :=
  s.onDevice fun v => s.finish { v with shamt := shiftAmount d } (.mask 0x00)

/-- `OUT 3, d`: discrete sound bank A (rule R142). -/
def execOut3 (d : Byte) (s : State) : Answer :=
  s.onDevice fun v => s.finish { v with prevA := d } (.mask (triggerA d v.prevA))

/-- `OUT 4, d`: the shift data (rule R143). -/
def execOut4 (d : Byte) (s : State) : Answer :=
  s.onDevice fun v => s.finish { v with shift := shiftIn v.shift d } (.mask 0x00)

/-- `OUT 5, d`: discrete sound bank B (rule R144). -/
def execOut5 (d : Byte) (s : State) : Answer :=
  s.onDevice fun v => s.finish { v with prevB := d } (.mask (triggerB d v.prevB))

/-- `OUT 6, d`: the watchdog, no effect (rule R145). -/
def execOut6 (_d : Byte) (s : State) : Answer :=
  s.onDevice fun v => s.finish v (.mask 0x00)

/-- `OUT p, d` of an unmapped port: no effect but `Violation(WR)` (rule R146). -/
def execOutUnmapped (_port _d : Byte) (s : State) : Answer :=
  s.onDevice fun v => s.finish (v.raise .wr) (.mask 0x00)

end Sys2Proof.Machine
end

