-- ==== Sys2Proof/Machine/Scheduler.lean ====
section
/-! DEFINITION. The Interrupt Scheduler (spec/42_interrupt_scheduler.md rules R160, R163 to R165). -/

namespace Sys2Proof.Machine

/-- The registers a firing poll writes: `NEXT` flipped, `t` recorded (rule R160). -/
def Device.turn (d : Device) (t : Time) : Device :=
  { d with next := flipIrq d.next, lastT := some t }

/-- A firing poll: it returns the old `NEXT`, and for the frame interrupt it performs SNAPSHOT before it ends (rules R160,
R180). -/
def State.fire (s : State) (d : Device) (t : Time) : Answer :=
  if d.next = s.params.frameIrq then
    answering (.isr (rasterIsr d.next)) (State.produce { s with dev := some (d.turn t), inPoll := true })
  else s.finish (d.turn t) (.isr (rasterIsr d.next))

/-- `POLL t` (rules R160, R170), the rows tried from the top. -/
def execPoll (t : Time) (s : State) : Answer :=
  s.onDevice fun d =>
    if d.quit then s.finish d (.isr .quit)
    else if d.fires t then s.fire d t
    else
      match d.lsreq with
      | .load => s.finish { d with lsreq := .none } (.isr .load)
      | .save => s.finish { d with lsreq := .none } (.isr .save)
      | .none => s.finish d (.isr .none)

/-- `SETQUIT` (rule R163). -/
def execSetquit (s : State) : Answer :=
  s.onDevice fun d => s.finish { d with quit := true } .done

/-- `REQLOAD` (rule R164). -/
def execReqload (s : State) : Answer :=
  s.onDevice fun d => s.finish { d with lsreq := .load } .done

/-- `REQSAVE` (rule R165). -/
def execReqsave (s : State) : Answer :=
  s.onDevice fun d => s.finish { d with lsreq := .save } .done

end Sys2Proof.Machine
end

