-- ==== Sys2Proof/Machine/Dispatch.lean ====
section
/-! DEFINITION. The one match from an instruction to its meaning. -/

namespace Sys2Proof.Machine

def exec (i : Instr) (s : State) : Host.Outcome State Fault Refusal :=
  match i with
  -- port reads (spec/40_port_reads.md)
  | .in0 => Sys2Proof.Machine.execIn0 s
  | .in1 => Sys2Proof.Machine.execIn1 s
  | .in2 => Sys2Proof.Machine.execIn2 s
  | .in3 => Sys2Proof.Machine.execIn3 s
  | .in6 => Sys2Proof.Machine.execIn6 s
  | .inUnmapped port => Sys2Proof.Machine.execInUnmapped port s
  -- port writes (spec/41_port_writes.md)
  | .out2 d => Sys2Proof.Machine.execOut2 d s
  | .out3 d => Sys2Proof.Machine.execOut3 d s
  | .out4 d => Sys2Proof.Machine.execOut4 d s
  | .out5 d => Sys2Proof.Machine.execOut5 d s
  | .out6 d => Sys2Proof.Machine.execOut6 d s
  | .outUnmapped port d => Sys2Proof.Machine.execOutUnmapped port d s
  -- construction (spec/70_reset_and_hazards.md)
  | .construct cfg => Sys2Proof.Machine.execConstruct cfg s
  -- interrupt scheduler (spec/42_interrupt_scheduler.md)
  | .poll t => Sys2Proof.Machine.execPoll t s
  | .setquit => Sys2Proof.Machine.execSetquit s
  | .reqload => Sys2Proof.Machine.execReqload s
  | .reqsave => Sys2Proof.Machine.execReqsave s
  -- frame pool (spec/43_frame_pool.md)
  | .dequeue => Sys2Proof.Machine.execDequeue s
  | .giveBack k => Sys2Proof.Machine.execGiveBack k s
  -- video blitter (spec/44_video_blitter.md)
  | .blitNative dst src stride => Sys2Proof.Machine.execBlitNative dst src stride s
  | .blitRgb332 dst src stride => Sys2Proof.Machine.execBlitRgb332 dst src stride s
  | .blitUpright dst src stride => Sys2Proof.Machine.execBlitUpright dst src stride s
  | .blitUpright8bpp dst src stride => Sys2Proof.Machine.execBlitUpright8bpp dst src stride s
  -- the internal step of POLL (spec/43_frame_pool.md)
  | .snapshot => Sys2Proof.Machine.execSnapshot s

end Sys2Proof.Machine
end

