-- ==== Sys2Proof/Machine/Step.lean ====
section
/-! DEFINITION. One step of the machine: the first event of the schedule (spec/00_scope.md rules R8, R9; log 1). -/

namespace Sys2Proof.Machine

/-- The first event of the schedule happens: an operation is decoded and executed, an environment event is applied. With an
empty schedule no agent acts and nothing changes. -/
def step (s : State) : Host.Outcome State Fault Refusal :=
  match s.schedule with
  | [] => .next s.idle
  | .operate p :: rest =>
    match decode p with
    | .ok i => exec i (s.advance rest)
    | .error .malformedSelector => .fault .malformedSelector
    | .error (.notAnOperation cmd) => .refused (.notAnOperation cmd)
  | .line id level :: rest => .next ((s.advance rest).environment (.line id level))
  | .inPlay b :: rest => .next ((s.advance rest).environment (.inPlay b))
  | .cpuWrite a v :: rest => .next ((s.advance rest).environment (.cpuWrite a v))
  | .hostWrite a v :: rest => .next ((s.advance rest).environment (.hostWrite a v))

/-- Is `w` the word of an operation that is performed only inside another? -/
def wordIsInternal (nbits w : Nat) : Bool :=
  match decodeTableWord nbits w with
  | some i => i.isInternal
  | none => false

/-- `s` with the operation of the table word `w` of `nbits` bits performed next, its operand lines zero. SNAPSHOT runs only
inside a firing POLL, so its word is placed with the POLL that performs it under way (log 13). -/
def State.withFetchWord (s : State) (nbits w : Nat) : State :=
  { s.present (presentedOfWord nbits w) with inPoll := wordIsInternal nbits w || s.inPoll }

end Sys2Proof.Machine
end

