-- ==== Sys2Proof/Machine/Trace.lean ====
section
/-! DEFINITION. Sequences of operations: what a list of them does and answers (spec/30_encoding.md rule R111), where a
run ends (spec/70_reset_and_hazards.md rule R287), and the pseudo-operations of rule R112. -/

namespace Sys2Proof.Machine

/-- The state an operation leaves and its answer, `none` where `exec` stops. -/
def execState (i : Instr) (s : State) : Option State :=
  match exec i s with
  | .next t => some t
  | .fault _ => none
  | .refused _ => none

/-- The operations of the list, one after another: the final state and the answers in order. -/
def execList : List Instr → State → Option (State × List Result)
  | [], s => some (s, [])
  | i :: rest, s =>
    match execState i s with
    | none => none
    | some t =>
      match execList rest t with
      | none => none
      | some (u, rs) => some (u, t.result :: rs)

/-! ## The end of a run (spec/70_reset_and_hazards.md rule R287, spec/60_exceptions.md rule R248, decision D41) -/

/-- The answer that ends a run: POLL's `ISR_QUIT`. -/
def Result.endsRun : Result → Bool
  | .isr .quit => true
  | .isr .one | .isr .two | .isr .load | .isr .save | .isr .none => false
  | .none | .value _ | .mask _ | .buffer _ | .device | .configError _ | .done | .noStep _ => false

/-- The run at the start of a list of operations. The block itself does not halt: `outside` lists the operations after the end,
which are defined but belong to no run (decision D41). -/
structure Run where
  /-- The operations of the run, the ending POLL included. -/
  inside : List Instr
  /-- Their answers, in order. -/
  answers : List Result
  /-- The state the run leaves. -/
  final : State
  /-- The operations after the end of the run. -/
  outside : List Instr
  /-- Has a POLL returned `ISR_QUIT`? -/
  ended : Bool
deriving DecidableEq, Repr

/-- The operations of the list, up to and including the first POLL that returns `ISR_QUIT`. -/
def runList : List Instr → State → Option Run
  | [], s => some ⟨[], [], s, [], false⟩
  | i :: rest, s =>
    match execState i s with
    | none => none
    | some t =>
      if t.result.endsRun then some ⟨[i], [t.result], t, rest, true⟩
      else
        match runList rest t with
        | none => none
        | some r => some { r with inside := i :: r.inside, answers := t.result :: r.answers }

/-- At most `k` steps of the machine, none of them after the end of the run. -/
def runSteps : Nat → State → Answer
  | 0, s => .next s
  | k + 1, s =>
    match step s with
    | .next t => if t.result.endsRun then .next t else runSteps k t
    | .fault f => .fault f
    | .refused r => .refused r

/-! ## The answers of the scheduler -/

/-- The raster values among the answers, in order. -/
def rasterOf : List Result → List RasterIrq
  | [] => []
  | .isr .one :: rest => .one :: rasterOf rest
  | .isr .two :: rest => .two :: rasterOf rest
  | .isr .load :: rest => rasterOf rest
  | .isr .save :: rest => rasterOf rest
  | .isr .quit :: rest => rasterOf rest
  | .isr .none :: rest => rasterOf rest
  | .none :: rest => rasterOf rest
  | .value _ :: rest => rasterOf rest
  | .mask _ :: rest => rasterOf rest
  | .buffer _ :: rest => rasterOf rest
  | .device :: rest => rasterOf rest
  | .configError _ :: rest => rasterOf rest
  | .done :: rest => rasterOf rest
  | .noStep _ :: rest => rasterOf rest

/-- The list alternates strictly and its first value is `first`. -/
def alternatesFrom (first : RasterIrq) : List RasterIrq → Bool
  | [] => true
  | x :: rest => x == first && alternatesFrom (flipIrq first) rest

/-- `SHIFTLOAD lo, hi` (rule R112). -/
def pseudoShiftLoad (lo hi : Byte) : List Instr := [.out4 lo, .out4 hi]

/-- `SHIFTREAD s` (rule R112). -/
def pseudoShiftRead (amount : Byte) : List Instr := [.out2 amount, .in3]

/-- `FRAME t1, t2` (rule R112). -/
def pseudoFrame (t1 t2 : Time) : List Instr := [.poll t1, .poll t2]

/-- `SOUNDPULSE 3, i` (rule R112). -/
def pseudoSoundPulseA (i : Nat) : List Instr := [.out3 (1#8 <<< i), .out3 0]

/-- `SOUNDPULSE 5, i` (rule R112). -/
def pseudoSoundPulseB (i : Nat) : List Instr := [.out5 (1#8 <<< i), .out5 0]

end Sys2Proof.Machine
end

