-- ==== Sys2Proof/Safety.lean ====
section
/-! DEFINITION. What holds of every state a run reaches (spec/10_state.md rule R41), and the terms the statements use. -/

namespace Sys2Proof.Machine

/-- How many buffers of the pool have owner `o`. -/
def Device.count (d : Device) (o : Owner) : Nat := d.buffers.countP fun b => b.owner == o

/-- The pool invariant (spec/10_state.md rules R31 to R33, R41): 1 to 3 buffers, the queue lists exactly the `QUEUED` buffers,
each once, and every frame is a canonical memory of offsets below 7168. -/
structure Device.Inv (d : Device) : Prop where
  pool_pos : 1 ≤ d.poolN
  pool_le : d.poolN ≤ 3
  queue_nodup : d.queue.Nodup
  queue_queued : ∀ k, k ∈ d.queue ↔ d.owns k .queued = true
  frames_wf : ∀ b ∈ d.buffers, Memory.wf b.bytes
  frames_small : ∀ b ∈ d.buffers, ∀ c ∈ b.bytes, c.1 < vramLen

/-- The state invariant: the device's, and canonical memories, the Memory Store's addresses below 65536,
and no POLL under way between steps (spec/00_scope.md rule R9). -/
structure State.Inv (s : State) : Prop where
  dev_inv : ∀ d, s.dev = some d → d.Inv
  mem_wf : Memory.wf s.mem
  mem_small : ∀ c ∈ s.mem, c.1 < memSize
  host_wf : Memory.wf s.hostMem
  not_in_poll : s.inPoll = false

/-- What `Sample(id)` reports, given `EDGE_PREV` before the read (spec/40_port_reads.md rules R127, R128). -/
def State.seen (s : State) (d : Device) (id : LineId) : Bool :=
  if s.params.edgeLines.get id && !s.inPlay then s.lines.get id && !d.edgePrev.get id else s.lines.get id

/-- `EDGE_PREV` after a read of a port that carries the lines `ids` (rule R128). -/
def State.edgeAfter (s : State) (d : Device) (ids : List LineId) (e : LineBits) : Prop :=
  ∀ id, e.get id = if s.params.edgeLines.get id = true ∧ id ∈ ids then s.lines.get id else d.edgePrev.get id

/-- The level a source drives: a fixed one, or the line's present level. -/
def State.levelOf (s : State) : BitSource → Bool
  | .fixed level => level
  | .line id => s.lines.get id

/-- The eight levels of a port's sources, bit 0 first. -/
def State.levelsOf (s : State) (pm : PortMap) : List Bool :=
  [s.levelOf pm.b0, s.levelOf pm.b1, s.levelOf pm.b2, s.levelOf pm.b3, s.levelOf pm.b4, s.levelOf pm.b5, s.levelOf pm.b6,
   s.levelOf pm.b7]

/-- The eight bits of a byte, bit 0 first. -/
def bitsOf (v : Byte) : List Bool :=
  [v.getLsbD 0, v.getLsbD 1, v.getLsbD 2, v.getLsbD 3, v.getLsbD 4, v.getLsbD 5, v.getLsbD 6, v.getLsbD 7]

/-- The state with the device `d` and the answer `r`, everything else as in `s`. -/
def State.afterOp (s : State) (d : Device) (r : Result) : State := { s with dev := some d, result := r }

/-- The state with HOST's memory `m` and an operation completed, everything else as in `s`. -/
def State.afterBlit (s : State) (m : Memory) : State := { s with hostMem := m, result := .done }

/-- The state with an operation refused, everything else as in `s`. -/
def State.afterRefusal (s : State) (r : NoStep) : State := { s with result := .noStep r }

/-- The destination byte at row `r` and column `c` of a picture with pitch `stride`. -/
def rowByte (dst : DstBuf) (stride r c : Nat) : Nat := dst.base + (r * stride + c)

end Sys2Proof.Machine
end

