-- ==== Sys2Proof/Certificates/Slice0/Obligations.lean ====
section
/-! DEFINITION. The statements for the provers, each a Prop over the model. The docstring names the rule of spec/ a statement
formalises. "Log n" is notes/assumptions/n.md. -/

open Sys2Proof Sys2Proof.Machine

/-! ## Encoding -/

/-- Decoding the encoding of a well-formed operation gives it back, whatever its operands (rules R91, R92). -/
def Obligations.DecodeEncodeRoundTrip : Prop :=
  ∀ i : Instr, i.wellFormed = true → decode (encode i) = .ok i

/-- Whatever the decoder accepts is a well-formed operation: a default row never takes a mapped port (rules R91, R106). -/
def Obligations.DecodedIsWellFormed : Prop :=
  ∀ (p : Presented) (i : Instr), decode p = .ok i → i.wellFormed = true

/-- Every one of the 512 selectors names one operation: the exact row of its (direction, port) where there is one, else the
default row of the direction (rules R91, R108). -/
def Obligations.EverySelectorDecodes : Prop :=
  ∀ (port : Byte) (ops : Operands),
    (∃ i, decode ⟨.pt, [port, 0], ops⟩ = .ok i ∧ (i = .inUnmapped port ↔ mappedRead port = false) ∧
      (i = .in0 ↔ port = 0) ∧ (i = .in1 ↔ port = 1) ∧ (i = .in2 ↔ port = 2) ∧ (i = .in3 ↔ port = 3) ∧ (i = .in6 ↔ port = 6)) ∧
    (∃ i, decode ⟨.pt, [port, 1], ops⟩ = .ok i ∧ (i = .outUnmapped port ops.data ↔ mappedWrite port = false) ∧
      (i = .out2 ops.data ↔ port = 2) ∧ (i = .out3 ops.data ↔ port = 3) ∧ (i = .out4 ops.data ↔ port = 4) ∧
      (i = .out5 ops.data ↔ port = 5) ∧ (i = .out6 ops.data ↔ port = 6))

/-- A command word is an operation exactly if rule R92 lists it; the decoder refuses any other by name, and so does the step
that meets it (rule R107; that the refusal ends the model's run is log 24). -/
def Obligations.UnlistedCommandsAreRefused : Prop :=
  ∀ (cmd : Byte) (ops : Operands),
    (cmd ∉ [0x00#8, 0x10#8, 0x20#8, 0x30#8, 0x40#8, 0x50#8, 0x60#8, 0x70#8, 0x71#8, 0x72#8, 0x73#8, 0xF0#8] →
      decode ⟨.hc, [cmd], ops⟩ = .error (.notAnOperation cmd) ∧
      ∀ s rest, s.schedule = .operate ⟨.hc, [cmd], ops⟩ :: rest → step s = .refused (.notAnOperation cmd)) ∧
    (cmd ∈ [0x00#8, 0x10#8, 0x20#8, 0x30#8, 0x40#8, 0x50#8, 0x60#8, 0x70#8, 0x71#8, 0x72#8, 0x73#8, 0xF0#8] →
      ∃ i, decode ⟨.hc, [cmd], ops⟩ = .ok i)

/-- Words of the spec's decoder table V1 (spec/95_test_vectors.md) decode as it says. -/
def Obligations.SpecWordsDecode : Prop :=
  decodeTableWord 16 0x000 = some .in0 ∧ decodeTableWord 16 0x003 = some .in3 ∧
  decodeTableWord 16 0x004 = some (.inUnmapped 4) ∧ decodeTableWord 16 0x083 = some (.inUnmapped 131) ∧
  decodeTableWord 16 0x102 = some (.out2 0) ∧ decodeTableWord 16 0x105 = some (.out5 0) ∧
  decodeTableWord 16 0x1FF = some (.outUnmapped 255 0) ∧ decodeTableWord 8 0x10 = some (.poll 0) ∧
  decodeTableWord 8 0x73 = some (.blitUpright8bpp ⟨0, 0⟩ (.frame 0) 0) ∧ decodeTableWord 8 0x50 = some .dequeue ∧
  decodeTableWord 8 0x11 = none ∧ decodeTableWord 8 0x74 = none

/-! ## The step -/

/-- A step performs the operation presented first on the schedule: it is exec of the decoded instruction, the schedule moved
on and nothing else added. The schedule is the model's own (log 1). -/
def Obligations.StepRunsDecodedOperation : Prop :=
  ∀ (s : State) (p : Presented) (rest : List Event) (i : Instr),
    s.schedule = .operate p :: rest → decode p = .ok i → step s = exec i { s with schedule := rest }

/-- What the environment's events do, and that nothing happens where no agent acts (rules R9, R63, R127, R128, R286; the event
list is the model's own, log 22, log 23). A CPU write changes the one byte it names and no frame (rule R77). -/
def Obligations.EnvironmentEventsDo : Prop :=
  ∀ (s : State) (rest : List Event),
    (∀ id level, s.schedule = .line id level :: rest → ∃ t, step s = .next t ∧
      t = { s with lines := t.lines, schedule := rest, result := .none } ∧
      ∀ j, t.lines.get j = if j = id then level else s.lines.get j) ∧
    (∀ b, s.schedule = .inPlay b :: rest → step s = .next { s with inPlay := b, schedule := rest, result := .none }) ∧
    (∀ a v, s.schedule = .cpuWrite a v :: rest → ∃ t, step s = .next t ∧
      t = { s with mem := t.mem, schedule := rest, result := .none } ∧
      ∀ b, Memory.read t.mem b = if b = a.toNat then v else Memory.read s.mem b) ∧
    (∀ a v, s.schedule = .hostWrite a v :: rest → ∃ t, step s = .next t ∧
      t = { s with hostMem := t.hostMem, schedule := rest, result := .none } ∧
      ∀ b, Memory.read t.hostMem b = if b = a then v else Memory.read s.hostMem b) ∧
    (s.schedule = [] → step s = .next { s with result := .none })

/-- Every operation answers a next state in every state and for every operand: none faults, none is without a meaning
(rules R9, R232: "no exceptions in steady-state operation"; a refused operation answers that it had no step, log 2). -/
def Obligations.EveryOperationAnswers : Prop :=
  ∀ (i : Instr) (s : State), ∃ t, exec i s = .next t

/-- Where no device exists, no operation but CONSTRUCT has a step (rules R243, R270, R273; the form of the refusal
is the model's, log 2). -/
def Obligations.NoDeviceNoStep : Prop :=
  ∀ (i : Instr) (s : State), s.dev = none → i.isConstruct = false → exec i s = .next (s.afterRefusal .noDevice)

/-! ## Port reads -/

/-- IN 0 under the default INPUT_MAP (rules R97, R120, R127, R128): bits 3:1 are 1, bit 7 is 0, bits 0, 4, 5, 6 are samples; only
EDGE_PREV of the port's edge-sampled lines changes. The bit positions are the spec's decision D13. -/
def Obligations.In0ReadsPortZero : Prop :=
  ∀ (s : State) (d : Device), s.dev = some d → s.params.inputMap = InputMap.default →
    ∃ v e, exec .in0 s = .next (s.afterOp { d with edgePrev := e } (.value v)) ∧
      bitsOf v = [s.seen d .dip4Selftest, true, true, true, s.seen d .p0Fire, s.seen d .p0Left, s.seen d .p0Right, false] ∧
      s.edgeAfter d [.dip4Selftest, .p0Fire, .p0Left, .p0Right] e

/-- IN 1 under the default INPUT_MAP (rules R98, R121, R127, R128; decision D13). -/
def Obligations.In1ReadsPortOne : Prop :=
  ∀ (s : State) (d : Device), s.dev = some d → s.params.inputMap = InputMap.default →
    ∃ v e, exec .in1 s = .next (s.afterOp { d with edgePrev := e } (.value v)) ∧
      bitsOf v = [s.seen d .credit, s.seen d .p2Start, s.seen d .p1Start, true, s.seen d .p1Fire, s.seen d .p1Left,
        s.seen d .p1Right, false] ∧
      s.edgeAfter d [.credit, .p2Start, .p1Start, .p1Fire, .p1Left, .p1Right] e

/-- IN 2 under the default INPUT_MAP (rules R99, R122, R127, R128; decision D13). -/
def Obligations.In2ReadsPortTwo : Prop :=
  ∀ (s : State) (d : Device), s.dev = some d → s.params.inputMap = InputMap.default →
    ∃ v e, exec .in2 s = .next (s.afterOp { d with edgePrev := e } (.value v)) ∧
      bitsOf v = [s.seen d .dip3ShipsLo, s.seen d .dip5ShipsHi, s.seen d .tilt, s.seen d .dip6ExtraShip, s.seen d .p2Fire,
        s.seen d .p2Left, s.seen d .p2Right, s.seen d .dip7CoinInfo] ∧
      s.edgeAfter d [.dip3ShipsLo, .dip5ShipsHi, .tilt, .dip6ExtraShip, .p2Fire, .p2Left, .p2Right, .dip7CoinInfo] e

/-- Level sampling under any INPUT_MAP (rule R127): with no edge-sampled line the three input ports report the present levels of
their sources and nothing but the answer changes. That port 0 bit 7 and port 1 bits 3 and 7 follow the map under every INPUT_MAP, where
rules R120 and R121 write fixed levels, is the model's reading (log 18); the lines a map can name are the model's choice (log 29). -/
def Obligations.LevelSamplingAnyMap : Prop :=
  ∀ (s : State) (d : Device), s.dev = some d → s.params.edgeLines = LineBits.none →
    (∃ v, exec .in0 s = .next (s.afterOp d (.value v)) ∧
      bitsOf v = s.levelsOf { s.params.inputMap.port0 with b1 := .fixed true, b2 := .fixed true, b3 := .fixed true }) ∧
    (∃ v, exec .in1 s = .next (s.afterOp d (.value v)) ∧ bitsOf v = s.levelsOf s.params.inputMap.port1) ∧
    (∃ v, exec .in2 s = .next (s.afterOp d (.value v)) ∧ bitsOf v = s.levelsOf s.params.inputMap.port2)

/-- Whatever the INPUT_MAP and the sampling policy, IN 0, IN 1 and IN 2 complete, change only EDGE_PREV, and IN 0 returns bits 3:1
high: `v & 0x0E = 0x0E` (rules R69, R97, R120). The lines a map can name are the model's choice (log 29). -/
def Obligations.In0HardWiredBitsAnyMap : Prop :=
  ∀ (s : State) (d : Device), s.dev = some d →
    (∃ v e, exec .in0 s = .next (s.afterOp { d with edgePrev := e } (.value v)) ∧ v &&& 0x0E#8 = 0x0E#8) ∧
    (∃ v e, exec .in1 s = .next (s.afterOp { d with edgePrev := e } (.value v))) ∧
    (∃ v e, exec .in2 s = .next (s.afterOp { d with edgePrev := e } (.value v)))

/-- IN 3 returns `(SHIFT >> (8 - SHAMT)) & 0xFF`, equivalently bit `j + 8 - SHAMT` of SHIFT as its bit `j`, and changes nothing
(rules R100, R123). -/
def Obligations.In3ReadsShiftWindow : Prop :=
  ∀ (s : State) (d : Device), s.dev = some d →
    ∃ v : Byte, exec .in3 s = .next (s.afterOp d (.value v)) ∧
      v.toNat = d.shift.toNat / 2 ^ (8 - d.shamt.toNat) % 256 ∧
      (∀ j, j < 8 → v.getLsbD j = d.shift.getLsbD (j + 8 - d.shamt.toNat)) ∧
      v = ((d.shift <<< d.shamt.toNat) >>> 8).truncate 8

/-- Bit 0 of SHIFT can never be read: two devices that differ only there give IN 3 the same answer (rule R123, corner case c). -/
def Obligations.In3NeverShowsBitZero : Prop :=
  ∀ (s : State) (d : Device) (x : Half), s.dev = some d → (∀ j, 1 ≤ j → j < 16 → x.getLsbD j = d.shift.getLsbD j) →
    ∃ v, exec .in3 s = .next (s.afterOp d (.value v)) ∧
      exec .in3 { s with dev := some { d with shift := x } } = .next (s.afterOp { d with shift := x } (.value v))

/-- The watchdog read returns 0x00 and changes nothing; a read of an unmapped port returns 0x00 and sets VIOL_RD alone
(rules R113, R124, R125). The watchdog's value is the spec's decision D11. -/
def Obligations.WatchdogAndUnmappedReads : Prop :=
  ∀ (s : State) (d : Device), s.dev = some d →
    exec .in6 s = .next (s.afterOp d (.value 0x00)) ∧
    ∀ p, exec (.inUnmapped p) s = .next (s.afterOp { d with violRd := true } (.value 0x00))

/-- No port read changes anything but EDGE_PREV and VIOL_RD (rule R126): every other register, the Memory Store, HOST's memory, the
lines and the parameters are as before. -/
def Obligations.PortReadsFrame : Prop :=
  ∀ (i : Instr) (s : State) (d : Device), s.dev = some d → i.isRead = true →
    ∃ v e w, exec i s = .next (s.afterOp { d with edgePrev := e, violRd := w } (.value v)) ∧
      (w = true ↔ d.violRd = true ∨ ∃ p, i = .inUnmapped p)

/-! ## Port writes -/

/-- OUT 2 stores the low three bits of the data byte in SHAMT, returns mask 0 and changes nothing else (rules R93, R141). The mask
is the spec's decision D12. -/
def Obligations.Out2SetsShiftAmount : Prop :=
  ∀ (s : State) (d : Device) (b : Byte), s.dev = some d →
    ∃ n : BitVec 3, exec (.out2 b) s = .next (s.afterOp { d with shamt := n } (.mask 0x00)) ∧ n.toNat = b.toNat % 8

/-- OUT 4 shifts the data byte into the high byte: `SHIFT <- (SHIFT >> 8) | (d << 8)`, mask 0, nothing else (rules R94, R143). The
mask is the spec's decision D12. -/
def Obligations.Out4ShiftsByteIn : Prop :=
  ∀ (s : State) (d : Device) (b : Byte), s.dev = some d →
    exec (.out4 b) s = .next (s.afterOp { d with shift := (d.shift >>> 8) ||| (b.zeroExtend 16 <<< 8) } (.mask 0x00))

/-- The sliding-window law (rule R147): after bytes `a` then `b` to port 4 and amount `n` to port 2 in any position, IN 3 reads bits
`15 - s` to `8 - s` of `{b, a}`, `s = n & 7`, whatever SHIFT held. -/
def Obligations.SlidingWindow : Prop :=
  ∀ (s : State) (d : Device) (a b n : Byte), s.dev = some d →
    ∀ ops ∈ [[Instr.out4 a, .out4 b, .out2 n, .in3], [.out4 a, .out2 n, .out4 b, .in3], [.out2 n, .out4 a, .out4 b, .in3]],
      ∃ t rs v, execList ops s = some (t, rs) ∧ t.result = .value v ∧
        ∀ j, j < 8 → v.getLsbD j
          = if j < n.toNat % 8 then a.getLsbD (8 - n.toNat % 8 + j) else b.getLsbD (j - n.toNat % 8)

/-- The source's unsigned comparison form of the edge test is the AND form: bit `i` of `Rise(d, prev)` (rule R140). -/
def Obligations.EdgeTestFormsAgree : Prop :=
  ∀ (d prev : Byte) (i : Nat), i < 8 →
    (rise d prev).getLsbD i = decide ((prev &&& (1#8 <<< i)).toNat < (d &&& (1#8 <<< i)).toNat) ∧
    (rise d prev).getLsbD i = (d.getLsbD i && !prev.getLsbD i)

/-- OUT 3: bit 0 of the mask by new or previous, bits 7:1 by strict rising edge against the old PREVA; PREVA takes the byte; nothing
else changes (rule R142). -/
def Obligations.Out3TriggersBankA : Prop :=
  ∀ (s : State) (d : Device) (b : Byte), s.dev = some d →
    ∃ m : Byte, exec (.out3 b) s = .next (s.afterOp { d with prevA := b } (.mask m)) ∧
      m = ((b &&& ~~~d.prevA) &&& 0xFE#8) ||| ((b ||| d.prevA) &&& 0x01#8) ∧
      ∀ i, i < 8 → m.getLsbD i
        = if i = 0 then b.getLsbD 0 || d.prevA.getLsbD 0 else b.getLsbD i && !d.prevA.getLsbD i

/-- OUT 5: all eight bits by strict rising edge against the old PREVB; PREVB takes the byte; nothing else changes (rule R144). -/
def Obligations.Out5TriggersBankB : Prop :=
  ∀ (s : State) (d : Device) (b : Byte), s.dev = some d →
    ∃ m : Byte, exec (.out5 b) s = .next (s.afterOp { d with prevB := b } (.mask m)) ∧
      ∀ i, i < 8 → m.getLsbD i = (b.getLsbD i && !d.prevB.getLsbD i)

/-- The sound-trigger property (rule R149): between two consecutive writes to one sound port, whatever other operations happen, the
second mask is decided by those two bytes alone. -/
def Obligations.SoundTriggersByConsecutiveWrites : Prop :=
  ∀ (s : State) (ops : List Instr) (b1 b2 : Byte), s.dev ≠ none → (∀ c, Instr.construct c ∉ ops) →
    ((∀ b, Instr.out3 b ∉ ops) →
      ∃ t rs m, execList ([Instr.out3 b1] ++ ops ++ [.out3 b2]) s = some (t, rs) ∧ t.result = .mask m ∧
        ∀ i, i < 8 → m.getLsbD i
          = if i = 0 then b2.getLsbD 0 || b1.getLsbD 0 else b2.getLsbD i && !b1.getLsbD i) ∧
    ((∀ b, Instr.out5 b ∉ ops) →
      ∃ t rs m, execList ([Instr.out5 b1] ++ ops ++ [.out5 b2]) s = some (t, rs) ∧ t.result = .mask m ∧
        ∀ i, i < 8 → m.getLsbD i = (b2.getLsbD i && !b1.getLsbD i))

/-- The watchdog write changes nothing; a write to an unmapped port sets VIOL_WR alone; both return mask 0
(rules R145, R146). The masks are the spec's decision D12. -/
def Obligations.WatchdogAndUnmappedWrites : Prop :=
  ∀ (s : State) (d : Device) (b : Byte), s.dev = some d →
    exec (.out6 b) s = .next (s.afterOp d (.mask 0x00)) ∧
    ∀ p, exec (.outUnmapped p b) s = .next (s.afterOp { d with violWr := true } (.mask 0x00))

/-- Each port write changes at most one register (rule R150): OUT 2 SHAMT, OUT 3 PREVA, OUT 4 SHIFT, OUT 5 PREVB, OUT 6 none, an
unmapped write VIOL_WR; nothing else of the state changes but the answer. That an
unmapped write sets VIOL_WR is decision D10. -/
def Obligations.PortWritesFrame : Prop :=
  ∀ (i : Instr) (s : State) (d : Device), s.dev = some d → i.isWrite = true →
    ∃ d' m, exec i s = .next (s.afterOp d' (.mask m)) ∧
      d' = { d with shift := d'.shift, shamt := d'.shamt, prevA := d'.prevA, prevB := d'.prevB, violWr := d'.violWr } ∧
      ((∃ b, i = .out4 b) ∨ d'.shift = d.shift) ∧ ((∃ b, i = .out2 b) ∨ d'.shamt = d.shamt) ∧
      ((∃ b, i = .out3 b) ∨ d'.prevA = d.prevA) ∧ ((∃ b, i = .out5 b) ∨ d'.prevB = d.prevB) ∧
      ((∃ p b, i = .outUnmapped p b) ∨ d'.violWr = d.violWr)

/-- The caller's sample index (rule R102): `((p - 3) << 2) + i` numbers bank A 0 to 7 and bank B 8 to 15. -/
def Obligations.SampleIndexSpansSixteenSlots : Prop :=
  ∀ i, i < 8 → sampleIndex 3 i = i ∧ sampleIndex 5 i = 8 + i

/-! ## Interrupt scheduler -/

/-- POLL, all rows of rule R170 tried from the top (rule R160): quit; firing without the frame snapshot and with it, which is what
SNAPSHOT does inside the POLL (log 13) after NEXT and LAST_T are written; draining load and save; nothing. FRAME_IRQ is the parameter, ISR_TWO by default (decision D8). -/
def Obligations.PollFollowsTable : Prop :=
  ∀ (s : State) (d : Device) (t : Time), s.dev = some d →
    (d.quit = true → exec (.poll t) s = .next (s.afterOp d (.isr .quit))) ∧
    (d.quit = false → d.lastT ≠ some t → d.next ≠ s.params.frameIrq →
      exec (.poll t) s = .next (s.afterOp { d with next := flipIrq d.next, lastT := some t } (.isr (rasterIsr d.next)))) ∧
    (d.quit = false → d.lastT ≠ some t → d.next = s.params.frameIrq →
      ∃ u, exec .snapshot { s with dev := some { d with next := flipIrq d.next, lastT := some t }, inPoll := true } = .next u ∧
        exec (.poll t) s = .next { u with result := .isr (rasterIsr d.next) }) ∧
    (d.quit = false → d.lastT = some t → d.lsreq = .load →
      exec (.poll t) s = .next (s.afterOp { d with lsreq := .none } (.isr .load))) ∧
    (d.quit = false → d.lastT = some t → d.lsreq = .save →
      exec (.poll t) s = .next (s.afterOp { d with lsreq := .none } (.isr .save))) ∧
    (d.quit = false → d.lastT = some t → d.lsreq = .none → exec (.poll t) s = .next (s.afterOp d (.isr .none)))

/-- Alternation (rule R161): among the answers of any operations without CONSTRUCT, in any order, the raster interrupts alternate
strictly and start with NEXT; polls whose timestamps each differ from the one before all return one; at reset NEXT is
ISR_ONE, the spec's own reading of "the first configured value" (decision D5). -/
def Obligations.RasterInterruptsAlternate : Prop :=
  (∀ (ops : List Instr) (s : State) (d : Device), s.dev = some d → (∀ c, Instr.construct c ∉ ops) →
    ∃ t rs, execList ops s = some (t, rs) ∧ alternatesFrom d.next (rasterOf rs) = true) ∧
  (∀ (ts : List Time) (s : State) (d : Device), s.dev = some d → d.quit = false → List.IsChain (· ≠ ·) ts →
    (∀ t0 ∈ ts.head?, d.lastT ≠ some t0) →
    ∃ t rs, execList (ts.map .poll) s = some (t, rs) ∧ (rasterOf rs).length = ts.length) ∧
  (∀ d, State.reset.dev = some d → d.next = .one)

/-- Quit is terminal (rule R162): once QUIT is set, after any operations without CONSTRUCT every poll returns ISR_QUIT whatever its
timestamp and changes nothing, and the other operations go on working. A step ends a run exactly if it is a POLL in the quit state, and
of any operations, from any state, those of the run are the ones up to and including the first POLL that returns ISR_QUIT, the rest
lying outside it (rules R248, R287, decision D41). -/
def Obligations.QuitIsTerminal : Prop :=
  (∀ (ops : List Instr) (s : State) (d : Device) (t : Time), s.dev = some d → d.quit = true → (∀ c, Instr.construct c ∉ ops) →
    ∃ u rs, execList ops s = some (u, rs) ∧ u.dev ≠ none ∧ exec (.poll t) u = .next { u with result := .isr .quit }) ∧
  (∀ s t : State, step s = .next t →
    (t.result.endsRun = true ↔ ∃ p rest x d, s.schedule = .operate p :: rest ∧ decode p = .ok (.poll x) ∧ s.dev = some d ∧
      d.quit = true)) ∧
  (∀ (ops : List Instr) (s : State), ∃ r, runList ops s = some r ∧ ops = r.inside ++ r.outside ∧
    execList r.inside s = some (r.final, r.answers) ∧
    (r.ended = false → r.outside = [] ∧ Result.isr .quit ∉ r.answers) ∧
    (r.ended = true → ∃ pre x rs, r.inside = pre ++ [.poll x] ∧ r.answers = rs ++ [.isr .quit] ∧ Result.isr .quit ∉ rs ∧
      ∃ d, r.final.dev = some d ∧ d.quit = true))

/-- A load or save request waits for the first poll that does not fire and is returned once (rule R166): while no poll has returned
it and no other request replaces it, it stays; a non-firing poll outside the quit state returns it; the same poll again returns
ISR_NONE. -/
def Obligations.RequestReturnedOnce : Prop :=
  ∀ (s u : State) (d : Device) (ops : List Instr) (rs : List Result) (q : LsReq) (r : Isr),
    ((q = .load ∧ r = .load) ∨ (q = .save ∧ r = .save)) → s.dev = some d → d.lsreq = q →
    (∀ c, Instr.construct c ∉ ops) → Instr.reqload ∉ ops → Instr.reqsave ∉ ops →
    execList ops s = some (u, rs) → Result.isr r ∉ rs →
    ∃ d', u.dev = some d' ∧ d'.lsreq = q ∧
      ∀ t, d'.quit = false → d'.lastT = some t →
        exec (.poll t) u = .next (u.afterOp { d' with lsreq := .none } (.isr r)) ∧
        exec (.poll t) (u.afterOp { d' with lsreq := .none } (.isr r))
          = .next (u.afterOp { d' with lsreq := .none } (.isr .none))

/-- SETQUIT, REQLOAD and REQSAVE write QUIT and LSREQ and nothing else, in every state of a device; a later request replaces an
earlier one (rules R163, R164, R165; the replacing is the spec's decision D26). -/
def Obligations.HostSignalsSetFlags : Prop :=
  ∀ (s : State) (d : Device), s.dev = some d →
    exec .setquit s = .next (s.afterOp { d with quit := true } .done) ∧
    exec .reqload s = .next (s.afterOp { d with lsreq := .load } .done) ∧
    exec .reqsave s = .next (s.afterOp { d with lsreq := .save } .done)

/-! ## Frame pool -/

/-- SNAPSHOT (rules R90, R180, R181): outside a firing POLL it has no step; inside one the lowest FREE buffer becomes QUEUED, is appended
to QUEUE, and its byte `o` is MEM[0x2400 + o] for every `o` below 7168; other buffers, DROPS and the Memory Store are left, and the POLL
is no longer under way. That the lowest is taken is the spec's decision D34; the mark of a POLL under way is the model's (log 13), and
so is the form of the refusal (log 2). -/
def Obligations.SnapshotFillsLowestFree : Prop :=
  ∀ (s : State) (d : Device), s.dev = some d →
    (s.inPoll = false → exec .snapshot s = .next (s.afterRefusal .insidePollOnly)) ∧
    (s.inPoll = true → ∀ k, d.owns k .free = true → (∀ j, j < k → d.owns j .free = false) →
      ∃ bytes, exec .snapshot s
          = .next { s.afterOp { d with buffers := d.buffers.set k ⟨.queued, bytes⟩, queue := d.queue ++ [k] } .done with
              inPoll := false } ∧
        ∀ o, o < 7168 → Memory.read bytes o = Memory.read s.mem (0x2400 + o))

/-- Drop, never wait (rule R182): with no FREE buffer the snapshot inside a POLL changes DROPS alone and ends the mark of the POLL (log 13),
and a firing poll returns its interrupt all the same (decision D27). -/
def Obligations.SnapshotDropsWithoutWaiting : Prop :=
  ∀ (s : State) (d : Device), s.dev = some d → (∀ k, d.owns k .free = false) →
    (s.inPoll = true → exec .snapshot s = .next { s.afterOp { d with drops := d.drops + 1 } .done with inPoll := false }) ∧
    ∀ t, d.quit = false → d.lastT ≠ some t → d.next = s.params.frameIrq →
      exec (.poll t) s
        = .next { s.afterOp { d with next := flipIrq d.next, lastT := some t, drops := d.drops + 1 } (.isr (rasterIsr d.next)) with
            inPoll := false }

/-- DEQUEUE (rule R184): the head of QUEUE is taken off, becomes HELD and is returned, nothing else changes; with an empty queue it has
no step (that this is a step which changes nothing is the model's, log 2). -/
def Obligations.DequeueTakesHead : Prop :=
  ∀ (s : State) (d : Device), s.dev = some d →
    (d.queue = [] → exec .dequeue s = .next (s.afterRefusal .queueEmpty)) ∧
    ∀ k rest, d.queue = k :: rest → k < d.poolN →
      ∃ d', exec .dequeue s = .next (s.afterOp d' (.buffer k)) ∧ d' = { d with buffers := d'.buffers, queue := rest } ∧
        d'.poolN = d.poolN ∧ d'.owns k .held = true ∧ (∀ j o, j ≠ k → d'.owns j o = d.owns j o) ∧
        ∀ j : Nat, (d'.buffers[j]?).map FrameBuffer.bytes = (d.buffers[j]?).map FrameBuffer.bytes

/-- RETURN k (rule R185): a HELD buffer becomes FREE, nothing else changes; any other RETURN has no step (decision D28;
the form of the refusal is the model's, log 2). -/
def Obligations.ReturnFreesHeldBuffer : Prop :=
  ∀ (s : State) (d : Device) (k : Nat), s.dev = some d →
    (d.owns k .held = false → exec (.giveBack k) s = .next (s.afterRefusal .notHeld)) ∧
    (d.owns k .held = true →
      ∃ d', exec (.giveBack k) s = .next (s.afterOp d' .done) ∧ d' = { d with buffers := d'.buffers } ∧
        d'.poolN = d.poolN ∧ d'.owns k .free = true ∧ (∀ j o, j ≠ k → d'.owns j o = d.owns j o) ∧
        ∀ j : Nat, (d'.buffers[j]?).map FrameBuffer.bytes = (d.buffers[j]?).map FrameBuffer.bytes)

/-- Conservation (rule R186): the counts of FREE, QUEUED and HELD buffers sum to POOL_N, which no operation but CONSTRUCT changes; an
operation moves at most one buffer, SNAPSHOT and POLL from FREE to QUEUED, DEQUEUE from QUEUED to HELD, RETURN from HELD to
FREE. -/
def Obligations.PoolConservation : Prop :=
  ∀ (i : Instr) (s : State) (d : Device), s.dev = some d → d.Inv → i.isConstruct = false →
    ∃ t d', exec i s = .next t ∧ t.dev = some d' ∧ d'.poolN = d.poolN ∧
      d'.count .free + d'.count .queued + d'.count .held = d'.poolN ∧
      ((d'.count .free = d.count .free ∧ d'.count .queued = d.count .queued ∧ d'.count .held = d.count .held) ∨
       (((∃ x, i = .poll x) ∨ (i = .snapshot ∧ s.inPoll = true)) ∧ d.count .free = d'.count .free + 1 ∧
         d'.count .queued = d.count .queued + 1 ∧ d'.count .held = d.count .held) ∨
       (i = .dequeue ∧ d'.count .free = d.count .free ∧ d.count .queued = d'.count .queued + 1 ∧
         d'.count .held = d.count .held + 1) ∨
       ((∃ k, i = .giveBack k) ∧ d'.count .free = d.count .free + 1 ∧ d'.count .queued = d.count .queued ∧
         d.count .held = d'.count .held + 1))

/-- First in, first out (rules R33, R187): an operation leaves QUEUE, appends one buffer that was FREE at its tail (POLL, SNAPSHOT), or
takes its head and returns it (DEQUEUE). -/
def Obligations.QueueIsFifo : Prop :=
  ∀ (i : Instr) (s : State) (d : Device), s.dev = some d → i.isConstruct = false →
    ∃ t d', exec i s = .next t ∧ t.dev = some d' ∧
      (d'.queue = d.queue ∨
       (((∃ x, i = .poll x) ∨ (i = .snapshot ∧ s.inPoll = true)) ∧ ∃ k, d.owns k .free = true ∧ d'.queue = d.queue ++ [k]) ∨
       (i = .dequeue ∧ ∃ k, d.queue = k :: d'.queue ∧ t.result = .buffer k))

/-- A frame is a point-in-time copy (rules R77, R187): while a buffer is QUEUED or HELD no operation but CONSTRUCT changes its bytes. -/
def Obligations.FrameBytesStable : Prop :=
  ∀ (i : Instr) (s : State) (d : Device) (k : Nat) (b : FrameBuffer), s.dev = some d → i.isConstruct = false →
    d.buffers[k]? = some b → b.owner ≠ .free →
    ∃ t d' b', exec i s = .next t ∧ t.dev = some d' ∧ d'.buffers[k]? = some b' ∧ b'.bytes = b.bytes

/-! ## Video blitter -/

/-- BLIT Native (rule R202): destination bytes 0 to 7167 are the source's, every other byte of HOST's memory and everything else is
left; `stride` plays no part (decision D19). -/
def Obligations.BlitNativeCopies : Prop :=
  ∀ (s : State) (d : Device) (dst : DstBuf) (src : Source) (stride : Nat) (bytes : Memory), s.dev = some d → d.mode = 0 →
    s.sourceBytes d src = some bytes → dstOverlaps dst src = false → 7168 ≤ dst.size →
    ∃ m, exec (.blitNative dst src stride) s = .next (s.afterBlit m) ∧
      ∀ a, Memory.read m a
        = if dst.base ≤ a ∧ a < dst.base + 7168 then Memory.read bytes (a - dst.base) else Memory.read s.hostMem a

/-- BLIT Rgb332 (rules R201, R203): pixel `(L, p)` goes to row `255 - p`, column `L` as COLOUR or 0x00; every other byte of HOST's memory,
padding of the rows included, and everything else is left. The height is the spec's decision D18. -/
def Obligations.BlitRgb332Rotates : Prop :=
  ∀ (s : State) (d : Device) (dst : DstBuf) (src : Source) (stride : Nat) (bytes : Memory), s.dev = some d → d.mode = 1 →
    s.sourceBytes d src = some bytes → dstOverlaps dst src = false → 224 ≤ stride → 255 * stride + 224 ≤ dst.size →
    ∃ m, exec (.blitRgb332 dst src stride) s = .next (s.afterBlit m) ∧
      (∀ L p, L < 224 → p < 256 →
        Memory.read m (rowByte dst stride (255 - p) L) = if px bytes L p then d.colour else 0x00) ∧
      ∀ a, (¬ ∃ r c, r < 256 ∧ c < 224 ∧ a = rowByte dst stride r c) → Memory.read m a = Memory.read s.hostMem a

/-- BLIT Upright (rule R205): bit `j` of the byte at row `255 - p`, byte column `k`, is pixel `p` of line `8 k + j`; every other byte of
HOST's memory and everything else is left. Where the byte is stored is the spec's decision D20. -/
def Obligations.BlitUprightTransposes : Prop :=
  ∀ (s : State) (d : Device) (dst : DstBuf) (src : Source) (stride : Nat) (bytes : Memory), s.dev = some d → d.mode = 2 →
    s.sourceBytes d src = some bytes → dstOverlaps dst src = false → 28 ≤ stride → 255 * stride + 28 ≤ dst.size →
    ∃ m, exec (.blitUpright dst src stride) s = .next (s.afterBlit m) ∧
      (∀ k p j, k < 28 → p < 256 → j < 8 →
        (Memory.read m (rowByte dst stride (255 - p) k)).getLsbD j = px bytes (8 * k + j) p) ∧
      ∀ a, (¬ ∃ r c, r < 256 ∧ c < 28 ∧ a = rowByte dst stride r c) → Memory.read m a = Memory.read s.hostMem a

/-- BLIT Upright8bpp (rule R206): in the default layout pixel `(L, p)` goes to offset `256 L + p` as COLOUR or 0x00 and every byte outside
the 57344 written is left; in the alternative layout the picture is that of rule R203. The layout is the spec's decision D21. -/
def Obligations.BlitUpright8bppExpands : Prop :=
  ∀ (s : State) (d : Device) (dst : DstBuf) (src : Source) (stride : Nat) (bytes : Memory), s.dev = some d → d.mode = 3 →
    s.sourceBytes d src = some bytes → dstOverlaps dst src = false →
    (s.params.upright8 = .linear → 57344 ≤ dst.size →
      ∃ m, exec (.blitUpright8bpp dst src stride) s = .next (s.afterBlit m) ∧
        (∀ L p, L < 224 → p < 256 → Memory.read m (dst.base + (256 * L + p)) = if px bytes L p then d.colour else 0x00) ∧
        ∀ a, ¬ (dst.base ≤ a ∧ a < dst.base + 57344) → Memory.read m a = Memory.read s.hostMem a) ∧
    (s.params.upright8 = .asRgb332 → 224 ≤ stride → 255 * stride + 224 ≤ dst.size →
      ∃ m, exec (.blitUpright8bpp dst src stride) s = .next (s.afterBlit m) ∧
        (∀ L p, L < 224 → p < 256 →
          Memory.read m (rowByte dst stride (255 - p) L) = if px bytes L p then d.colour else 0x00) ∧
        ∀ a, (¬ ∃ r c, r < 256 ∧ c < 224 ∧ a = rowByte dst stride r c) → Memory.read m a = Memory.read s.hostMem a)

/-- The source of a BLIT (rule R200, decision D37): the 7168 bytes of a HELD frame, or 7168 bytes of HOST's memory; none for a frame that is
not HELD. A source in HOST's memory is the model's reading (log 11). -/
def Obligations.BlitSourceBytes : Prop :=
  ∀ (s : State) (d : Device),
    (∀ k b, d.buffers[k]? = some b → b.owner = .held → s.sourceBytes d (.frame k) = some b.bytes) ∧
    (∀ k, d.owns k .held = false → s.sourceBytes d (.frame k) = none) ∧
    ∀ base, ∃ bytes, s.sourceBytes d (.host base) = some bytes ∧
      ∀ o, Memory.read bytes o = if o < 7168 then Memory.read s.hostMem (base + o) else 0x00

/-- BLIT has no step and changes nothing where the frame is not HELD, where the destination overlaps the source, or where the destination
or the pitch is too small (rules R79, R200, R202, R203, R205, R206), nor where the word's `sub` is not MODE (rule R92, log 12). The order
of the tests is the model's (log 25), and so are the form of a refusal, a next state that answers noStep (log 2), and HOST's memory, which
decides when a destination overlaps its source (log 11). -/
def Obligations.BlitRefusals : Prop :=
  ∀ (s : State) (d : Device) (dst : DstBuf) (src : Source) (stride : Nat), s.dev = some d →
    (∀ k, src = .frame k → d.owns k .held = false →
      ∀ i ∈ [Instr.blitNative dst src stride, .blitRgb332 dst src stride, .blitUpright dst src stride,
        .blitUpright8bpp dst src stride], exec i s = .next (s.afterRefusal .notHeld)) ∧
    (s.sourceBytes d src ≠ none → dstOverlaps dst src = true →
      (d.mode = 0 → exec (.blitNative dst src stride) s = .next (s.afterRefusal .overlap)) ∧
      (d.mode = 1 → exec (.blitRgb332 dst src stride) s = .next (s.afterRefusal .overlap)) ∧
      (d.mode = 2 → exec (.blitUpright dst src stride) s = .next (s.afterRefusal .overlap)) ∧
      (d.mode = 3 → exec (.blitUpright8bpp dst src stride) s = .next (s.afterRefusal .overlap))) ∧
    (s.sourceBytes d src ≠ none → dstOverlaps dst src = false →
      (d.mode = 0 → dst.size < 7168 → exec (.blitNative dst src stride) s = .next (s.afterRefusal .tooSmall)) ∧
      (d.mode = 1 → stride < 224 ∨ dst.size < 255 * stride + 224 →
        exec (.blitRgb332 dst src stride) s = .next (s.afterRefusal .tooSmall)) ∧
      (d.mode = 2 → stride < 28 ∨ dst.size < 255 * stride + 28 →
        exec (.blitUpright dst src stride) s = .next (s.afterRefusal .tooSmall)) ∧
      (d.mode = 3 → s.params.upright8 = .linear → dst.size < 57344 →
        exec (.blitUpright8bpp dst src stride) s = .next (s.afterRefusal .tooSmall)) ∧
      (d.mode = 3 → s.params.upright8 = .asRgb332 → stride < 224 ∨ dst.size < 255 * stride + 224 →
        exec (.blitUpright8bpp dst src stride) s = .next (s.afterRefusal .tooSmall))) ∧
    (s.sourceBytes d src ≠ none →
      (d.mode ≠ 0 → exec (.blitNative dst src stride) s = .next (s.afterRefusal .subNotMode)) ∧
      (d.mode ≠ 1 → exec (.blitRgb332 dst src stride) s = .next (s.afterRefusal .subNotMode)) ∧
      (d.mode ≠ 2 → exec (.blitUpright dst src stride) s = .next (s.afterRefusal .subNotMode)) ∧
      (d.mode ≠ 3 → exec (.blitUpright8bpp dst src stride) s = .next (s.afterRefusal .subNotMode)))

/-- BLIT is a pure function of MODE, COLOUR, the source and the pitch (rule R207): of two completed BLITs of one mode, colour, pitch and
source, into any two destinations, each destination offset is either left by both or written alike by both (HOST's memory is the model's, log 11). -/
def Obligations.BlitIsPure : Prop :=
  ∀ mk ∈ [Instr.blitNative, Instr.blitRgb332, Instr.blitUpright, Instr.blitUpright8bpp],
    ∀ (s s' t t' : State) (d d' : Device) (dst dst' : DstBuf) (src src' : Source) (stride : Nat) (bytes bytes' : Memory),
      s.dev = some d → s'.dev = some d' → d.colour = d'.colour → s.params.upright8 = s'.params.upright8 →
      s.sourceBytes d src = some bytes → s'.sourceBytes d' src' = some bytes' →
      (∀ o, o < 7168 → Memory.read bytes o = Memory.read bytes' o) →
      exec (mk dst src stride) s = .next t → t.result = .done →
      exec (mk dst' src' stride) s' = .next t' → t'.result = .done →
      ∀ o, Memory.read t.hostMem (dst.base + o) = Memory.read t'.hostMem (dst'.base + o) ∨
        (Memory.read t.hostMem (dst.base + o) = Memory.read s.hostMem (dst.base + o) ∧
         Memory.read t'.hostMem (dst'.base + o) = Memory.read s'.hostMem (dst'.base + o))

/-- One set source pixel gives exactly one set destination bit in Upright mode, bit `L mod 8` of byte `(255 - p) stride + L div 8`
(rules R205, R208; the place of the byte is decision D20). -/
def Obligations.UprightSinglePixel : Prop :=
  ∀ (s : State) (d : Device) (dst : DstBuf) (src : Source) (stride : Nat) (bytes : Memory) (L0 p0 : Nat),
    s.dev = some d → d.mode = 2 → s.sourceBytes d src = some bytes → dstOverlaps dst src = false → 28 ≤ stride →
    255 * stride + 28 ≤ dst.size → L0 < 224 → p0 < 256 →
    (∀ L p, L < 224 → p < 256 → (px bytes L p = true ↔ L = L0 ∧ p = p0)) →
    ∃ t, exec (.blitUpright dst src stride) s = .next t ∧
      ∀ r k j, r < 256 → k < 28 → j < 8 →
        ((Memory.read t.hostMem (rowByte dst stride r k)).getLsbD j = true ↔ r = 255 - p0 ∧ k = L0 / 8 ∧ j = L0 % 8)

/-- The Upright picture is the 1-bit packing of the Rgb332 picture of the same source (rules R203, R205): bit `c mod 8` of the Upright byte
at row `r`, byte `c div 8`, is set exactly where the Rgb332 byte at row `r`, column `c`, drawn with COLOUR 1, is 1. -/
def Obligations.UprightPacksRgb332 : Prop :=
  ∀ (s s' : State) (d d' : Device) (dst dst' : DstBuf) (src src' : Source) (bytes : Memory),
    s.dev = some d → d.mode = 2 → s.sourceBytes d src = some bytes → dstOverlaps dst src = false → 7168 ≤ dst.size →
    s'.dev = some d' → d'.mode = 1 → d'.colour = 1 → s'.sourceBytes d' src' = some bytes → dstOverlaps dst' src' = false →
    57344 ≤ dst'.size →
    ∃ t t', exec (.blitUpright dst src 28) s = .next t ∧ exec (.blitRgb332 dst' src' 224) s' = .next t' ∧
      ∀ r c, r < 256 → c < 224 →
        ((Memory.read t.hostMem (rowByte dst 28 r (c / 8))).getLsbD (c % 8) = true ↔
          Memory.read t'.hostMem (rowByte dst' 224 r c) = 1#8)

/-! ## Construction -/

/-- A successful CONSTRUCT (rules R39, R104, R270): MODE, COLOUR and POOL_N from the configuration, every other register at its reset
value, the Memory Store, lines and HOST's memory as they were (log 15). -/
def Obligations.ConstructSucceeds : Prop :=
  ∀ (s : State) (cfg : Cfg) (c : Byte), (cfg.bpp = 1 ∨ cfg.bpp = 8) → (cfg.orient = "cocktail" ∨ cfg.orient = "upright") →
    parseColour s.params.colourNames (Config.drawnColour s.draws) cfg.colour = some c →
    (cfg.pool = 1 ∨ cfg.pool = 2 ∨ cfg.pool = 3) →
    ∃ d, exec (.construct cfg) s = .next { s with dev := some d, draws := s.draws + 1, result := .device } ∧
      d.mode.toNat = (if cfg.orient = "upright" then 2 else 0) + (if cfg.bpp = 8 then 1 else 0) ∧
      d.colour = c ∧ d.poolN = cfg.pool ∧ (∀ k, k < cfg.pool → d.owns k .free = true) ∧ d.queue = [] ∧
      d.shift = s.params.resetShift ∧ d.shamt = s.params.resetShamt ∧ d.prevA = s.params.resetPrevA ∧
      d.prevB = s.params.resetPrevB ∧ d.next = .one ∧ d.lastT = none ∧ d.quit = false ∧ d.lsreq = .none ∧ d.drops = 0 ∧
      d.violRd = false ∧ d.violWr = false ∧ d.violMode = false ∧ ∀ id, d.edgePrev.get id = false

/-- A malformed configuration (rules R270, R271): no device exists afterwards, and the first failing check, in the order bits-per-pixel,
orientation, colour, pool, is the one reported (decisions D17, D25). -/
def Obligations.ConstructFailsByFirstCheck : Prop :=
  ∀ (s : State) (cfg : Cfg),
    (¬ (cfg.bpp = 1 ∨ cfg.bpp = 8) →
      exec (.construct cfg) s = .next { s with dev := none, draws := s.draws + 1, result := .configError .bpp }) ∧
    ((cfg.bpp = 1 ∨ cfg.bpp = 8) → ¬ (cfg.orient = "cocktail" ∨ cfg.orient = "upright") →
      exec (.construct cfg) s = .next { s with dev := none, draws := s.draws + 1, result := .configError .orient }) ∧
    ((cfg.bpp = 1 ∨ cfg.bpp = 8) → (cfg.orient = "cocktail" ∨ cfg.orient = "upright") →
      parseColour s.params.colourNames (Config.drawnColour s.draws) cfg.colour = none →
      exec (.construct cfg) s = .next { s with dev := none, draws := s.draws + 1, result := .configError .colour }) ∧
    ((cfg.bpp = 1 ∨ cfg.bpp = 8) → (cfg.orient = "cocktail" ∨ cfg.orient = "upright") →
      parseColour s.params.colourNames (Config.drawnColour s.draws) cfg.colour ≠ none →
      ¬ (cfg.pool = 1 ∨ cfg.pool = 2 ∨ cfg.pool = 3) →
      exec (.construct cfg) s = .next { s with dev := none, draws := s.draws + 1, result := .configError .pool })

/-- ParseColour (rule R272): "green" is 0x14 and "purple" is unrecognized whatever other names are recognized; a string that is no name is the
byte of its one- or two-digit hex literal, any drawn byte for "random", and else unrecognized. -/
def Obligations.ParseColourFollowsRule : Prop :=
  ∀ (names : List (String × Byte)) (drawn : Byte),
    parseColour names drawn "green" = some 0x14 ∧ parseColour names drawn "purple" = none ∧
    (∀ (text : String) (a b : Char) (x y : Nat), colourName names text = none → hexDigit a = some x → hexDigit b = some y →
      (text.toList = ['0', 'x', a] → parseColour names drawn text = some (BitVec.ofNat 8 x)) ∧
      (text.toList = ['0', 'x', a, b] → parseColour names drawn text = some (BitVec.ofNat 8 (16 * x + y)))) ∧
    (colourName names "random" = none → parseColour names drawn "random" = some drawn) ∧
    (∀ text : String, colourName names text = none → text ≠ "random" →
      (¬ ∃ a x, hexDigit a = some x ∧ text.toList = ['0', 'x', a]) →
      (¬ ∃ a b x y, hexDigit a = some x ∧ hexDigit b = some y ∧ text.toList = ['0', 'x', a, b]) →
      parseColour names drawn text = none)

/-- Reset (rules R39, R270): the reset state holds the values of rule R39's table, and it is what CONSTRUCT of the configuration of rule
R270's example leaves. The configuration is the model's choice (log 5). -/
def Obligations.ResetIsConstructed : Prop :=
  exec (.construct ⟨8, "cocktail", "green", 2⟩) State.reset = .next { State.reset with draws := 1, result := .device } ∧
  ∃ d, State.reset.dev = some d ∧ d.shift = 0 ∧ d.shamt = 0 ∧ d.prevA = 0 ∧ d.prevB = 0 ∧ d.next = .one ∧ d.lastT = none ∧
    d.quit = false ∧ d.lsreq = .none ∧ d.drops = 0 ∧ d.violRd = false ∧ d.violWr = false ∧ d.violMode = false ∧
    d.mode = 1 ∧ d.colour = 0x14 ∧ d.poolN = 2 ∧ d.owns 0 .free = true ∧ d.owns 1 .free = true ∧ d.queue = [] ∧
    d.edgePrev = LineBits.none

/-! ## Whole-machine rules -/

/-- The invariant holds at reset. -/
def Obligations.ResetMeetsInv : Prop := State.reset.Inv

/-- Every step keeps the invariant, from every state that meets it (rule R41; the canonical form of the memories is the
model's, and so is the mark of a POLL under way, false between steps, log 13). -/
def Obligations.EveryStepKeepsInv : Prop :=
  ∀ s t : State, s.Inv → step s = .next t → t.Inv

/-- What the invariant says of the pool (rule R41): the length of QUEUE is the number of QUEUED buffers and at most POOL_N, and the counts
of FREE, QUEUED and HELD buffers sum to POOL_N. -/
def Obligations.InvCountsThePool : Prop :=
  ∀ d : Device, d.Inv →
    d.queue.length = d.count .queued ∧ d.queue.length ≤ d.poolN ∧
    d.count .free + d.count .queued + d.count .held = d.poolN

/-- Only CONSTRUCT clears QUIT and the violation flags; only an unmapped read sets VIOL_RD, only an unmapped write VIOL_WR, only SETQUIT QUIT,
and nothing sets VIOL_MODE (rules R27, R30, R40, R41, R200). -/
def Obligations.StickyFlags : Prop :=
  ∀ (i : Instr) (s : State) (d : Device), s.dev = some d → i.isConstruct = false →
    ∃ t d', exec i s = .next t ∧ t.dev = some d' ∧
      (d'.quit = true ↔ d.quit = true ∨ i = .setquit) ∧
      (d'.violRd = true ↔ d.violRd = true ∨ ∃ p, i = .inUnmapped p) ∧
      (d'.violWr = true ↔ d.violWr = true ∨ ∃ p b, i = .outUnmapped p b) ∧
      d'.violMode = d.violMode

/-- The rights of rule R38: HOST's operations change none of SHIFT, SHAMT, PREVA, PREVB, NEXT, LAST_T, DROPS, VIOL_RD, VIOL_WR, EDGE_PREV or the
configuration; EMU's change none of QUIT, VIOL_MODE, the configuration or HOST's memory and can only drain LSREQ. -/
def Obligations.AgentRights : Prop :=
  ∀ (i : Instr) (s : State) (d : Device), s.dev = some d →
    (i.agent = .host → ∃ t d', exec i s = .next t ∧ t.dev = some d' ∧
      d' = { d with quit := d'.quit, lsreq := d'.lsreq, violMode := d'.violMode, buffers := d'.buffers, queue := d'.queue } ∧
      d'.poolN = d.poolN ∧ ∀ k : Nat, (d'.buffers[k]?).map FrameBuffer.bytes = (d.buffers[k]?).map FrameBuffer.bytes) ∧
    (i.agent = .emu → ∃ t d', exec i s = .next t ∧ t.dev = some d' ∧ t.hostMem = s.hostMem ∧
      d'.quit = d.quit ∧ d'.violMode = d.violMode ∧ d'.mode = d.mode ∧ d'.colour = d.colour ∧ d'.poolN = d.poolN ∧
      (d'.lsreq = d.lsreq ∨ d'.lsreq = .none))

/-- No operation at all writes the Memory Store, the input lines, `in_play`, the parameters or the schedule, and no operation but BLIT writes
HOST's memory; MODE, COLOUR and POOL_N are written by CONSTRUCT alone (rules R7, R31, R34, R36, R79). That CONSTRUCT too leaves
the Memory Store, the lines, `in_play` and HOST's memory is the model's reading (log 15). No operation leaves a POLL under way (log 13). -/
def Obligations.SurroundingsUntouched : Prop :=
  ∀ (i : Instr) (s : State), ∃ t, exec i s = .next t ∧ t.mem = s.mem ∧ t.lines = s.lines ∧ t.inPlay = s.inPlay ∧
    t.params = s.params ∧ t.schedule = s.schedule ∧ (t.inPoll = true → s.inPoll = true) ∧ (i.isBlit = true ∨ t.hostMem = s.hostMem) ∧
    (i.isConstruct = true ∨
      (t.dev = none ∧ s.dev = none) ∨
      ∃ d d', s.dev = some d ∧ t.dev = some d' ∧ d'.mode = d.mode ∧ d'.colour = d.colour ∧ d'.poolN = d.poolN)

/-- The pseudo-operations of rule R112 have the effects it lists. -/
def Obligations.PseudoOperationsDo : Prop :=
  ∀ (s : State) (d : Device), s.dev = some d →
    (∀ lo hi : Byte, ∃ t rs, execList (pseudoShiftLoad lo hi) s = some (t, rs) ∧
      t.dev = some { d with shift := hi ++ lo }) ∧
    (∀ n : Byte, ∃ t rs v, execList (pseudoShiftRead n) s = some (t, rs) ∧ t.result = .value v ∧
      v.toNat = d.shift.toNat / 2 ^ (8 - n.toNat % 8) % 256) ∧
    (∀ t1 t2 : Time, d.quit = false → d.next = .one → t1 ≠ t2 → d.lastT ≠ some t1 → d.lastT ≠ some t2 →
      ∃ t, execList (pseudoFrame t1 t2) s = some (t, [.isr .one, .isr .two])) ∧
    (∀ i, i < 8 → d.prevA = 0 → ∃ t m, execList (pseudoSoundPulseA i) s = some (t, [.mask m, .mask (if i = 0 then 0x01 else 0x00)]) ∧
      m.getLsbD i = true) ∧
    (∀ i, i < 8 → d.prevB = 0 → ∃ t m, execList (pseudoSoundPulseB i) s = some (t, [.mask m, .mask 0x00]) ∧ m.getLsbD i = true)
end

