-- ==== Sys2Proof/Laws/Memory.lean ====
section
/-! SUPPORT. What the memory operations do, byte by byte, and that each keeps the canonical form. The read laws need no
canonical form; the form is what makes equal memories equal data (`Memory.ext_of_wf`). -/

namespace Sys2Proof.Machine

/-! ## Reading -/

@[simp] theorem Memory.read_nil (a : Nat) : Memory.read [] a = 0#8 := rfl

theorem Memory.read_cons (c : Host.Cell) (m : Memory) (a : Nat) :
    Memory.read (c :: m) a = if c.1 = a then c.2 else Memory.read m a := rfl

theorem Memory.read_unlisted {m : Memory} {a : Nat} (h : ∀ c ∈ m, c.1 ≠ a) : Memory.read m a = 0#8 := by
  induction m with
  | nil => rfl
  | cons c m ih =>
    rw [Memory.read_cons, if_neg (h c (by simp))]
    exact ih fun e he => h e (by simp [he])

/-- A byte that does not read 0x00 is listed. -/
theorem Memory.listed_of_read_ne {m : Memory} {a : Nat} (h : Memory.read m a ≠ 0#8) : ∃ c ∈ m, c.1 = a := by
  by_contra hc
  push Not at hc
  exact h (Memory.read_unlisted hc)

theorem Memory.read_clear (m : Memory) (p : Nat → Bool) (a : Nat) :
    Memory.read (Memory.clear m p) a = if p a then 0#8 else Memory.read m a := by
  induction m with
  | nil => simp [Memory.clear]
  | cons c m ih =>
    by_cases hc : p c.1 <;> by_cases ha : c.1 = a
    · subst ha
      simp only [Memory.clear, List.filter_cons, hc] at ih ⊢
      simpa [hc] using ih
    · simp only [Memory.clear, List.filter_cons, hc] at ih ⊢
      simpa [Memory.read_cons, ha] using ih
    · subst ha
      simp [Memory.clear, hc, Memory.read_cons]
    · simp only [Memory.clear, List.filter_cons, hc] at ih ⊢
      simpa [Memory.read_cons, ha] using ih

theorem Memory.read_insert_same {m : Memory} {c : Host.Cell} (h : ∀ e ∈ m, e.1 ≠ c.1) :
    Memory.read (Memory.insert m c) c.1 = c.2 := by
  induction m with
  | nil => simp [Memory.insert, Memory.read_cons]
  | cons e m ih =>
    by_cases hlt : c.1 < e.1
    · simp [Memory.insert, hlt, Memory.read_cons]
    · simp only [Memory.insert, hlt, if_false, Memory.read_cons, h e (by simp)]
      exact ih fun f hf => h f (by simp [hf])

theorem Memory.read_insert_other (m : Memory) {c : Host.Cell} {a : Nat} (h : c.1 ≠ a) :
    Memory.read (Memory.insert m c) a = Memory.read m a := by
  induction m with
  | nil => simp [Memory.insert, Memory.read_cons, h]
  | cons e m ih =>
    by_cases hlt : c.1 < e.1 <;> simp [Memory.insert, hlt, Memory.read_cons, h, ih]

theorem Memory.clear_no_key (m : Memory) (p : Nat → Bool) (a : Nat) (h : p a = true) :
    ∀ e ∈ Memory.clear m p, e.1 ≠ a := by
  intro e he hea
  simp [Memory.clear, hea, h] at he

/-- The byte written is the byte read back. -/
@[simp] theorem Memory.read_write_same (m : Memory) (a : Nat) (v : Byte) :
    Memory.read (Memory.write m a v) a = v := by
  by_cases hv : v = unlistedByte
  · subst hv; simp [Memory.write, Memory.read_clear, unlistedByte]
  · simp only [Memory.write, hv, if_false]
    exact Memory.read_insert_same (c := (a, v)) (Memory.clear_no_key m _ a (by simp))

/-- A write leaves every other address alone. -/
theorem Memory.read_write_other (m : Memory) {a b : Nat} (v : Byte) (h : a ≠ b) :
    Memory.read (Memory.write m a v) b = Memory.read m b := by
  have hb : ¬ (b = a) := fun e => h e.symm
  by_cases hv : v = unlistedByte
  · simp [Memory.write, hv, Memory.read_clear, hb]
  · simp only [Memory.write, hv, if_false]
    rw [Memory.read_insert_other _ h, Memory.read_clear]
    simp [hb]

theorem Memory.read_write (m : Memory) (a b : Nat) (v : Byte) :
    Memory.read (Memory.write m a v) b = if a = b then v else Memory.read m b := by
  split
  · next h => subst h; simp
  · next h => exact Memory.read_write_other m v h

theorem Memory.read_slice (m : Memory) (base len o : Nat) :
    Memory.read (Memory.slice m base len) o = if o < len then Memory.read m (base + o) else 0#8 := by
  induction m with
  | nil => simp [Memory.slice]
  | cons c m ih =>
    by_cases hin : base ≤ c.1 ∧ c.1 < base + len
    · have hs : Memory.slice (c :: m) base len = (c.1 - base, c.2) :: Memory.slice m base len := by
        simp [Memory.slice, hin.1, hin.2]
      rw [hs, Memory.read_cons, ih]
      by_cases ho : c.1 = base + o
      · have h2 : o < len := by omega
        simp [h2, Memory.read_cons, ho]
      · have h1 : ¬ (c.1 - base = o) := by omega
        simp [h1, Memory.read_cons, ho]
    · have hs : Memory.slice (c :: m) base len = Memory.slice m base len := by
        have : (decide (base ≤ c.1) && decide (c.1 < base + len)) = false := by
          by_contra hx; simp at hx; exact hin hx
        simp [Memory.slice, this]
      rw [hs, ih]
      by_cases h2 : o < len
      · have ho : ¬ (c.1 = base + o) := by omega
        simp [h2, Memory.read_cons, ho]
      · simp [h2]

theorem Memory.read_mark (base : Nat) (m : Memory) (c : Host.Cell) (a : Nat) :
    Memory.read (Memory.mark base m c) a
      = if base + c.1 = a then Memory.read m a ||| c.2 else Memory.read m a := by
  unfold Memory.mark
  rw [Memory.read_write]
  split
  · next h => rw [h]
  · rfl

/-- The bits the marks set at offset `o`. -/
def marksAt (marks : List Host.Cell) (o : Nat) : Byte :=
  marks.foldl (fun acc c => if c.1 = o then acc ||| c.2 else acc) 0#8

theorem marksAt_foldl (marks : List Host.Cell) (o : Nat) (acc : Byte) :
    marks.foldl (fun acc c => if c.1 = o then acc ||| c.2 else acc) acc = acc ||| marksAt marks o := by
  induction marks generalizing acc with
  | nil => simp [marksAt]
  | cons c marks ih =>
    have h0 := ih (if c.1 = o then 0#8 ||| c.2 else 0#8)
    simp only [marksAt, List.foldl_cons] at h0 ⊢
    rw [ih, h0]
    split <;> simp [marksAt, BitVec.or_assoc]

/-- Bit `j` of the marks at `o` is set exactly where some mark sets it. -/
theorem marksAt_getLsbD (marks : List Host.Cell) (o j : Nat) :
    (marksAt marks o).getLsbD j = true ↔ ∃ c ∈ marks, c.1 = o ∧ c.2.getLsbD j = true := by
  induction marks with
  | nil => simp [marksAt]
  | cons c marks ih =>
    have : marksAt (c :: marks) o = (if c.1 = o then c.2 else 0#8) ||| marksAt marks o := by
      simp only [marksAt, List.foldl_cons]
      rw [marksAt_foldl]
      split <;> simp [marksAt]
    rw [this, BitVec.getLsbD_or, Bool.or_eq_true, ih]
    by_cases hc : c.1 = o <;> simp [hc]

theorem Memory.read_foldl_mark (base : Nat) (marks : List Host.Cell) (m : Memory) (a : Nat) :
    Memory.read (marks.foldl (Memory.mark base) m) a
      = Memory.read m a ||| (if base ≤ a then marksAt marks (a - base) else 0#8) := by
  induction marks generalizing m with
  | nil => simp [marksAt]
  | cons c marks ih =>
    rw [List.foldl_cons, ih, Memory.read_mark]
    have hm : marksAt (c :: marks) (a - base)
        = (if c.1 = a - base then c.2 else 0#8) ||| marksAt marks (a - base) := by
      simp only [marksAt, List.foldl_cons]
      rw [marksAt_foldl]
      split <;> simp [marksAt]
    by_cases hb : base ≤ a
    · have : (base + c.1 = a) ↔ (c.1 = a - base) := by omega
      simp only [hb, if_true, hm, this]
      split <;> simp [BitVec.or_assoc]
    · have : ¬ (base + c.1 = a) := by omega
      simp [hb, this]

/-- Everything a picture does: inside its offsets the marks alone, elsewhere what was there and the marks. -/
theorem Memory.read_paint (m : Memory) (base : Nat) (written : Nat → Bool) (marks : List Host.Cell) (a : Nat) :
    Memory.read (Memory.paint m base written marks) a
      = (if base ≤ a ∧ written (a - base) = true then 0#8 else Memory.read m a)
        ||| (if base ≤ a then marksAt marks (a - base) else 0#8) := by
  unfold Memory.paint
  rw [Memory.read_foldl_mark, Memory.read_clear]
  simp [Bool.and_eq_true]

/-- Offset `o` inside the picture. -/
theorem Memory.read_paint_inside {m : Memory} {base : Nat} {written : Nat → Bool} {marks : List Host.Cell} {o : Nat}
    (h : written o = true) : Memory.read (Memory.paint m base written marks) (base + o) = marksAt marks o := by
  rw [Memory.read_paint]
  simp [h]

/-- An address outside the picture, where no mark falls. -/
theorem Memory.read_paint_outside {m : Memory} {base : Nat} {written : Nat → Bool} {marks : List Host.Cell} {a : Nat}
    (hm : ∀ c ∈ marks, written c.1 = true) (h : ¬ (base ≤ a ∧ written (a - base) = true)) :
    Memory.read (Memory.paint m base written marks) a = Memory.read m a := by
  rw [Memory.read_paint, if_neg h]
  split
  · next hb =>
    have : marksAt marks (a - base) = 0#8 := by
      apply BitVec.eq_of_getLsbD_eq
      intro j _
      rw [BitVec.getLsbD_zero]
      by_contra hj
      rw [Bool.not_eq_false] at hj
      obtain ⟨c, hc, hco, _⟩ := (marksAt_getLsbD marks (a - base) j).1 hj
      exact h ⟨hb, hco ▸ hm c hc⟩
    simp [this]
  · simp

/-! ## The canonical form -/

theorem Memory.wf_nil : Memory.wf [] := ⟨List.Pairwise.nil, fun _ h => absurd h List.not_mem_nil⟩

theorem Memory.wf_clear {m : Memory} (h : Memory.wf m) (p : Nat → Bool) : Memory.wf (Memory.clear m p) :=
  ⟨h.1.filter _, fun c hc => h.2 c (List.mem_of_mem_filter hc)⟩

theorem Memory.mem_insert (m : Memory) (c e : Host.Cell) : e ∈ Memory.insert m c ↔ e = c ∨ e ∈ m := by
  induction m with
  | nil => simp [Memory.insert]
  | cons f m ih =>
    by_cases hlt : c.1 < f.1
    · simp [Memory.insert, hlt]
    · simp only [Memory.insert, hlt, if_false, List.mem_cons, ih]
      tauto

theorem Memory.wf_insert {m : Memory} {c : Host.Cell} (h : Memory.wf m) (hk : ∀ e ∈ m, e.1 ≠ c.1)
    (hv : c.2 ≠ unlistedByte) : Memory.wf (Memory.insert m c) := by
  refine ⟨?_, fun e he => ?_⟩
  · induction m with
    | nil => simp [Memory.insert]
    | cons e m ih =>
      have hp := List.pairwise_cons.1 h.1
      by_cases hlt : c.1 < e.1
      · simp only [Memory.insert, hlt, if_true]
        refine List.pairwise_cons.2 ⟨fun f hf => ?_, h.1⟩
        rcases List.mem_cons.1 hf with rfl | hf
        · exact hlt
        · exact Nat.lt_trans hlt (hp.1 f hf)
      · simp only [Memory.insert, hlt, if_false]
        refine List.pairwise_cons.2 ⟨fun f hf => ?_, ?_⟩
        · rcases (Memory.mem_insert m c f).1 hf with rfl | hf
          · have := hk e (by simp)
            omega
          · exact hp.1 f hf
        · exact ih ⟨hp.2, fun f hf => h.2 f (by simp [hf])⟩ fun f hf => hk f (by simp [hf])
  · rcases (Memory.mem_insert m c e).1 he with rfl | he
    · exact hv
    · exact h.2 e he

/-- A write keeps the canonical form. -/
theorem Memory.wf_write {m : Memory} (h : Memory.wf m) (a : Nat) (v : Byte) : Memory.wf (Memory.write m a v) := by
  by_cases hv : v = unlistedByte
  · simp only [Memory.write, hv, if_true]
    exact Memory.wf_clear h _
  · simp only [Memory.write, hv, if_false]
    exact Memory.wf_insert (Memory.wf_clear h _) (Memory.clear_no_key m _ a (by simp)) hv

theorem Memory.wf_slice {m : Memory} (h : Memory.wf m) (base len : Nat) : Memory.wf (Memory.slice m base len) := by
  refine ⟨?_, fun c hc => ?_⟩
  · refine List.pairwise_map.2 ?_
    have hf : List.Pairwise (fun c e : Host.Cell => c.1 < e.1)
        (m.filter fun c => decide (base ≤ c.1) && decide (c.1 < base + len)) := h.1.filter _
    refine List.Pairwise.imp_of_mem ?_ hf
    intro c e hc he hlt
    have := (List.mem_filter.1 hc).2
    have := (List.mem_filter.1 he).2
    simp only [Bool.and_eq_true, decide_eq_true_eq] at *
    omega
  · obtain ⟨e, he, rfl⟩ := List.mem_map.1 hc
    exact h.2 e (List.mem_of_mem_filter he)

theorem Memory.wf_mark {m : Memory} (h : Memory.wf m) (base : Nat) (c : Host.Cell) : Memory.wf (Memory.mark base m c) :=
  Memory.wf_write h _ _

/-- A picture keeps the canonical form. -/
theorem Memory.wf_paint {m : Memory} (h : Memory.wf m) (base : Nat) (written : Nat → Bool) (marks : List Host.Cell) :
    Memory.wf (Memory.paint m base written marks) := by
  unfold Memory.paint
  generalize hm : Memory.clear m _ = m'
  have h' : Memory.wf m' := hm ▸ Memory.wf_clear h _
  clear hm
  induction marks generalizing m' with
  | nil => exact h'
  | cons c marks ih => exact ih _ (Memory.wf_mark h' base c)

/-! ## Which addresses are listed -/

theorem Memory.slice_small (m : Memory) (base len : Nat) : ∀ c ∈ Memory.slice m base len, c.1 < len := by
  intro c hc
  obtain ⟨e, he, rfl⟩ := List.mem_map.1 hc
  have := (List.mem_filter.1 he).2
  simp only [Bool.and_eq_true, decide_eq_true_eq] at this
  show e.1 - base < len
  omega

theorem Memory.write_small {m : Memory} {n a : Nat} (h : ∀ c ∈ m, c.1 < n) (ha : a < n) (v : Byte) :
    ∀ c ∈ Memory.write m a v, c.1 < n := by
  intro c hc
  by_cases hv : v = unlistedByte
  · simp only [Memory.write, hv, if_true] at hc
    exact h c (List.mem_of_mem_filter hc)
  · simp only [Memory.write, hv, if_false] at hc
    rcases (Memory.mem_insert _ _ _).1 hc with rfl | hc
    · exact ha
    · exact h c (List.mem_of_mem_filter hc)

/-! ## Equal memories are equal data -/

theorem Memory.read_of_mem {m : Memory} (h : Memory.wf m) {c : Host.Cell} (hc : c ∈ m) : Memory.read m c.1 = c.2 := by
  induction m with
  | nil => simp at hc
  | cons e m ih =>
    have hp := List.pairwise_cons.1 h.1
    rcases List.mem_cons.1 hc with rfl | hc'
    · simp [Memory.read_cons]
    · have : e.1 ≠ c.1 := Nat.ne_of_lt (hp.1 c hc')
      rw [Memory.read_cons, if_neg this]
      exact ih ⟨hp.2, fun f hf => h.2 f (by simp [hf])⟩ hc'

theorem Memory.mem_iff_read {m : Memory} (h : Memory.wf m) (c : Host.Cell) :
    c ∈ m ↔ Memory.read m c.1 = c.2 ∧ c.2 ≠ 0#8 := by
  constructor
  · intro hc
    exact ⟨Memory.read_of_mem h hc, h.2 c hc⟩
  · rintro ⟨hr, hv⟩
    obtain ⟨e, he, hea⟩ := Memory.listed_of_read_ne (m := m) (a := c.1) (hr ▸ hv)
    have := Memory.read_of_mem h he
    rw [hea, hr] at this
    have : c = e := Prod.ext hea.symm this
    exact this ▸ he

/-- Two canonical memories that read the same everywhere are the same list. -/
theorem Memory.ext_of_wf {m m' : Memory} (h : Memory.wf m) (h' : Memory.wf m')
    (hr : ∀ a, Memory.read m a = Memory.read m' a) : m = m' := by
  have hmem : ∀ c, c ∈ m ↔ c ∈ m' := fun c => by
    rw [Memory.mem_iff_read h, Memory.mem_iff_read h', hr]
  have hn : m.Nodup := h.1.imp fun {a b} hab hne => absurd (congrArg Prod.fst hne) (Nat.ne_of_lt hab)
  have hn' : m'.Nodup := h'.1.imp fun {a b} hab hne => absurd (congrArg Prod.fst hne) (Nat.ne_of_lt hab)
  have hperm : m.Perm m' := (List.perm_ext_iff_of_nodup hn hn').2 hmem
  exact List.Perm.eq_of_pairwise (fun a b _ _ hab hba => absurd hab (Nat.lt_asymm hba)) h.1 h'.1 hperm

end Sys2Proof.Machine
end

