-- ==== Sys2Proof/Laws/State.lean ====
section
/-! SUPPORT. One lemma for each field and each update of the state and of the device, so that no later proof unfolds an
update. -/

namespace Sys2Proof.Machine

/-! ## The state -/

@[simp] theorem State.advance_dev (s : State) (rest : List Event) : (s.advance rest).dev = s.dev := rfl
@[simp] theorem State.advance_mem (s : State) (rest : List Event) : (s.advance rest).mem = s.mem := rfl
@[simp] theorem State.advance_lines (s : State) (rest : List Event) : (s.advance rest).lines = s.lines := rfl
@[simp] theorem State.advance_inPlay (s : State) (rest : List Event) : (s.advance rest).inPlay = s.inPlay := rfl
@[simp] theorem State.advance_hostMem (s : State) (rest : List Event) : (s.advance rest).hostMem = s.hostMem := rfl
@[simp] theorem State.advance_params (s : State) (rest : List Event) : (s.advance rest).params = s.params := rfl
@[simp] theorem State.advance_inPoll (s : State) (rest : List Event) : (s.advance rest).inPoll = s.inPoll := rfl
@[simp] theorem State.advance_draws (s : State) (rest : List Event) : (s.advance rest).draws = s.draws := rfl
@[simp] theorem State.advance_schedule (s : State) (rest : List Event) : (s.advance rest).schedule = rest := rfl
@[simp] theorem State.advance_result (s : State) (rest : List Event) : (s.advance rest).result = s.result := rfl
@[simp] theorem State.idle_dev (s : State) : (s.idle).dev = s.dev := rfl
@[simp] theorem State.idle_mem (s : State) : (s.idle).mem = s.mem := rfl
@[simp] theorem State.idle_lines (s : State) : (s.idle).lines = s.lines := rfl
@[simp] theorem State.idle_inPlay (s : State) : (s.idle).inPlay = s.inPlay := rfl
@[simp] theorem State.idle_hostMem (s : State) : (s.idle).hostMem = s.hostMem := rfl
@[simp] theorem State.idle_params (s : State) : (s.idle).params = s.params := rfl
@[simp] theorem State.idle_inPoll (s : State) : (s.idle).inPoll = s.inPoll := rfl
@[simp] theorem State.idle_draws (s : State) : (s.idle).draws = s.draws := rfl
@[simp] theorem State.idle_schedule (s : State) : (s.idle).schedule = s.schedule := rfl
@[simp] theorem State.idle_result (s : State) : (s.idle).result = .none := rfl
@[simp] theorem State.present_dev (s : State) (p : Presented) : (s.present p).dev = s.dev := rfl
@[simp] theorem State.present_mem (s : State) (p : Presented) : (s.present p).mem = s.mem := rfl
@[simp] theorem State.present_lines (s : State) (p : Presented) : (s.present p).lines = s.lines := rfl
@[simp] theorem State.present_inPlay (s : State) (p : Presented) : (s.present p).inPlay = s.inPlay := rfl
@[simp] theorem State.present_hostMem (s : State) (p : Presented) : (s.present p).hostMem = s.hostMem := rfl
@[simp] theorem State.present_params (s : State) (p : Presented) : (s.present p).params = s.params := rfl
@[simp] theorem State.present_inPoll (s : State) (p : Presented) : (s.present p).inPoll = s.inPoll := rfl
@[simp] theorem State.present_draws (s : State) (p : Presented) : (s.present p).draws = s.draws := rfl
@[simp] theorem State.present_schedule (s : State) (p : Presented) : (s.present p).schedule = .operate p :: s.schedule := rfl
@[simp] theorem State.present_result (s : State) (p : Presented) : (s.present p).result = s.result := rfl

/-! ## The device: an owner changes -/

@[simp] theorem Device.setOwner_shift (d : Device) (k : Nat) (o : Owner) : (d.setOwner k o).shift = d.shift := rfl
@[simp] theorem Device.setOwner_shamt (d : Device) (k : Nat) (o : Owner) : (d.setOwner k o).shamt = d.shamt := rfl
@[simp] theorem Device.setOwner_prevA (d : Device) (k : Nat) (o : Owner) : (d.setOwner k o).prevA = d.prevA := rfl
@[simp] theorem Device.setOwner_prevB (d : Device) (k : Nat) (o : Owner) : (d.setOwner k o).prevB = d.prevB := rfl
@[simp] theorem Device.setOwner_next (d : Device) (k : Nat) (o : Owner) : (d.setOwner k o).next = d.next := rfl
@[simp] theorem Device.setOwner_lastT (d : Device) (k : Nat) (o : Owner) : (d.setOwner k o).lastT = d.lastT := rfl
@[simp] theorem Device.setOwner_quit (d : Device) (k : Nat) (o : Owner) : (d.setOwner k o).quit = d.quit := rfl
@[simp] theorem Device.setOwner_lsreq (d : Device) (k : Nat) (o : Owner) : (d.setOwner k o).lsreq = d.lsreq := rfl
@[simp] theorem Device.setOwner_drops (d : Device) (k : Nat) (o : Owner) : (d.setOwner k o).drops = d.drops := rfl
@[simp] theorem Device.setOwner_violRd (d : Device) (k : Nat) (o : Owner) : (d.setOwner k o).violRd = d.violRd := rfl
@[simp] theorem Device.setOwner_violWr (d : Device) (k : Nat) (o : Owner) : (d.setOwner k o).violWr = d.violWr := rfl
@[simp] theorem Device.setOwner_violMode (d : Device) (k : Nat) (o : Owner) : (d.setOwner k o).violMode = d.violMode := rfl
@[simp] theorem Device.setOwner_mode (d : Device) (k : Nat) (o : Owner) : (d.setOwner k o).mode = d.mode := rfl
@[simp] theorem Device.setOwner_colour (d : Device) (k : Nat) (o : Owner) : (d.setOwner k o).colour = d.colour := rfl
@[simp] theorem Device.setOwner_queue (d : Device) (k : Nat) (o : Owner) : (d.setOwner k o).queue = d.queue := rfl
@[simp] theorem Device.setOwner_edgePrev (d : Device) (k : Nat) (o : Owner) : (d.setOwner k o).edgePrev = d.edgePrev := rfl

/-! ## The device: a violation is raised -/

@[simp] theorem Device.raise_rd (d : Device) : d.raise .rd = { d with violRd := true } := rfl
@[simp] theorem Device.raise_wr (d : Device) : d.raise .wr = { d with violWr := true } := rfl
@[simp] theorem Device.raise_mode (d : Device) : d.raise .mode = { d with violMode := true } := rfl

/-! ## The device: a snapshot writes the pool or the drop count -/

@[simp] theorem Device.snapshot_shift (d : Device) (mem : Memory) : (d.snapshot mem).shift = d.shift := by
  unfold Device.snapshot; split <;> rfl
@[simp] theorem Device.snapshot_shamt (d : Device) (mem : Memory) : (d.snapshot mem).shamt = d.shamt := by
  unfold Device.snapshot; split <;> rfl
@[simp] theorem Device.snapshot_prevA (d : Device) (mem : Memory) : (d.snapshot mem).prevA = d.prevA := by
  unfold Device.snapshot; split <;> rfl
@[simp] theorem Device.snapshot_prevB (d : Device) (mem : Memory) : (d.snapshot mem).prevB = d.prevB := by
  unfold Device.snapshot; split <;> rfl
@[simp] theorem Device.snapshot_next (d : Device) (mem : Memory) : (d.snapshot mem).next = d.next := by
  unfold Device.snapshot; split <;> rfl
@[simp] theorem Device.snapshot_lastT (d : Device) (mem : Memory) : (d.snapshot mem).lastT = d.lastT := by
  unfold Device.snapshot; split <;> rfl
@[simp] theorem Device.snapshot_quit (d : Device) (mem : Memory) : (d.snapshot mem).quit = d.quit := by
  unfold Device.snapshot; split <;> rfl
@[simp] theorem Device.snapshot_lsreq (d : Device) (mem : Memory) : (d.snapshot mem).lsreq = d.lsreq := by
  unfold Device.snapshot; split <;> rfl
@[simp] theorem Device.snapshot_violRd (d : Device) (mem : Memory) : (d.snapshot mem).violRd = d.violRd := by
  unfold Device.snapshot; split <;> rfl
@[simp] theorem Device.snapshot_violWr (d : Device) (mem : Memory) : (d.snapshot mem).violWr = d.violWr := by
  unfold Device.snapshot; split <;> rfl
@[simp] theorem Device.snapshot_violMode (d : Device) (mem : Memory) : (d.snapshot mem).violMode = d.violMode := by
  unfold Device.snapshot; split <;> rfl
@[simp] theorem Device.snapshot_mode (d : Device) (mem : Memory) : (d.snapshot mem).mode = d.mode := by
  unfold Device.snapshot; split <;> rfl
@[simp] theorem Device.snapshot_colour (d : Device) (mem : Memory) : (d.snapshot mem).colour = d.colour := by
  unfold Device.snapshot; split <;> rfl
@[simp] theorem Device.snapshot_edgePrev (d : Device) (mem : Memory) : (d.snapshot mem).edgePrev = d.edgePrev := by
  unfold Device.snapshot; split <;> rfl

/-! ## The device: a firing poll writes `NEXT` and `LAST_T` -/

@[simp] theorem Device.turn_shift (d : Device) (t : Time) : (d.turn t).shift = d.shift := rfl
@[simp] theorem Device.turn_shamt (d : Device) (t : Time) : (d.turn t).shamt = d.shamt := rfl
@[simp] theorem Device.turn_prevA (d : Device) (t : Time) : (d.turn t).prevA = d.prevA := rfl
@[simp] theorem Device.turn_prevB (d : Device) (t : Time) : (d.turn t).prevB = d.prevB := rfl
@[simp] theorem Device.turn_quit (d : Device) (t : Time) : (d.turn t).quit = d.quit := rfl
@[simp] theorem Device.turn_lsreq (d : Device) (t : Time) : (d.turn t).lsreq = d.lsreq := rfl
@[simp] theorem Device.turn_drops (d : Device) (t : Time) : (d.turn t).drops = d.drops := rfl
@[simp] theorem Device.turn_violRd (d : Device) (t : Time) : (d.turn t).violRd = d.violRd := rfl
@[simp] theorem Device.turn_violWr (d : Device) (t : Time) : (d.turn t).violWr = d.violWr := rfl
@[simp] theorem Device.turn_violMode (d : Device) (t : Time) : (d.turn t).violMode = d.violMode := rfl
@[simp] theorem Device.turn_mode (d : Device) (t : Time) : (d.turn t).mode = d.mode := rfl
@[simp] theorem Device.turn_colour (d : Device) (t : Time) : (d.turn t).colour = d.colour := rfl
@[simp] theorem Device.turn_buffers (d : Device) (t : Time) : (d.turn t).buffers = d.buffers := rfl
@[simp] theorem Device.turn_queue (d : Device) (t : Time) : (d.turn t).queue = d.queue := rfl
@[simp] theorem Device.turn_edgePrev (d : Device) (t : Time) : (d.turn t).edgePrev = d.edgePrev := rfl
@[simp] theorem Device.turn_next (d : Device) (t : Time) : (d.turn t).next = flipIrq d.next := rfl
@[simp] theorem Device.turn_lastT (d : Device) (t : Time) : (d.turn t).lastT = some t := rfl

end Sys2Proof.Machine
end

