-- ==== Sys2Proof/Laws/Ops.lean ====
section
/-! SUPPORT. What each shared operation can do: answering, refusing, owners, the snapshot and the firing poll. -/

namespace Sys2Proof.Machine

/-! ## Answers -/

theorem State.refuse_eq (s : State) (r : NoStep) : s.refuse r = .next { s with result := .noStep r } := rfl

theorem State.finish_eq (s : State) (d : Device) (r : Result) :
    s.finish d r = .next { s with dev := some d, result := r } := rfl

theorem State.onDevice_some {s : State} {d : Device} (h : s.dev = some d) (f : Device → Answer) : s.onDevice f = f d := by
  simp [State.onDevice, h]

theorem State.onDevice_none {s : State} (h : s.dev = none) (f : Device → Answer) :
    s.onDevice f = .next { s with result := .noStep .noDevice } := by
  simp [State.onDevice, h, State.refuse]

/-- Everything an operation of a device can do: no step where there is no device, else what it does with the device. -/
theorem State.onDevice_cases {s : State} {f : Device → Answer} {t : State} (h : s.onDevice f = .next t) :
    (s.dev = none ∧ t = { s with result := .noStep .noDevice }) ∨ ∃ d, s.dev = some d ∧ f d = .next t := by
  unfold State.onDevice at h
  split at h
  · next hd => exact .inl ⟨hd, by simpa [State.refuse] using h.symm⟩
  · next d hd => exact .inr ⟨d, hd, h⟩

/-! ## Owners -/

theorem Device.owns_eq_true {d : Device} {k : Nat} {o : Owner} :
    d.owns k o = true ↔ ∃ b, d.buffers[k]? = some b ∧ b.owner = o := by
  unfold Device.owns
  split
  · next b hb => simp [hb]
  · next hb => simp [hb]

theorem Device.owns_lt {d : Device} {k : Nat} {o : Owner} (h : d.owns k o = true) : k < d.poolN := by
  obtain ⟨b, hb, _⟩ := Device.owns_eq_true.1 h
  exact (List.getElem?_eq_some_iff.1 hb).1

/-- A buffer has one owner. -/
theorem Device.owns_unique {d : Device} {k : Nat} {o o' : Owner} (h : d.owns k o = true) (h' : d.owns k o' = true) :
    o = o' := by
  obtain ⟨b, hb, rfl⟩ := Device.owns_eq_true.1 h
  obtain ⟨b', hb', rfl⟩ := Device.owns_eq_true.1 h'
  rw [hb] at hb'
  exact congrArg FrameBuffer.owner (Option.some.inj hb')

theorem Device.owns_some (d : Device) {k : Nat} (h : k < d.poolN) : ∃ o, d.owns k o = true := by
  exact ⟨d.buffers[k].owner, Device.owns_eq_true.2 ⟨_, List.getElem?_eq_getElem h, rfl⟩⟩

@[simp] theorem Device.poolN_setOwner (d : Device) (k : Nat) (o : Owner) : (d.setOwner k o).poolN = d.poolN := by
  simp [Device.poolN, Device.setOwner]

theorem Device.getElem?_setOwner (d : Device) (k : Nat) (o : Owner) (j : Nat) :
    (d.setOwner k o).buffers[j]?
      = (d.buffers[j]?).map fun b => if k = j then { b with owner := o } else b := by
  unfold Device.setOwner
  rw [List.getElem?_modify]
  split <;> simp

/-- The owner of `j` after `OWNER[k] <- o`. -/
theorem Device.owns_setOwner (d : Device) (k j : Nat) (o o' : Owner) :
    (d.setOwner k o).owns j o' = if k = j then (decide (k < d.poolN) && o == o') else d.owns j o' := by
  unfold Device.owns
  rw [Device.getElem?_setOwner]
  by_cases hk : k = j
  · subst hk
    by_cases hlt : k < d.buffers.length
    · simp [Device.poolN, hlt]
    · simp [Device.poolN, hlt]
  · cases d.buffers[j]? <;> simp [hk]

theorem Device.bytes_setOwner (d : Device) (k j : Nat) (o : Owner) :
    ((d.setOwner k o).buffers[j]?).map FrameBuffer.bytes = (d.buffers[j]?).map FrameBuffer.bytes := by
  rw [Device.getElem?_setOwner]
  cases d.buffers[j]? with
  | none => rfl
  | some b => by_cases hk : k = j <;> simp [hk]

/-! ## The snapshot -/

theorem Device.firstFree_eq_some {d : Device} {k : Nat} :
    d.firstFree = some k ↔ d.owns k .free = true ∧ ∀ j, j < k → d.owns j .free = false := by
  unfold Device.firstFree
  rw [List.findIdx?_eq_some_iff_getElem]
  constructor
  · rintro ⟨hk, hf, hj⟩
    refine ⟨Device.owns_eq_true.2 ⟨_, List.getElem?_eq_getElem hk, by simpa using hf⟩, fun j hjk => ?_⟩
    have := hj j hjk
    have hjl : j < d.buffers.length := by omega
    simpa [Device.owns, List.getElem?_eq_getElem hjl] using this
  · rintro ⟨hk, hj⟩
    have hkl := Device.owns_lt hk
    refine ⟨hkl, ?_, fun j hjk => ?_⟩
    · simpa [Device.owns, List.getElem?_eq_getElem hkl] using hk
    · have hjl : j < d.buffers.length := Nat.lt_trans hjk hkl
      simpa [Device.owns, List.getElem?_eq_getElem hjl] using hj j hjk

theorem Device.firstFree_eq_none {d : Device} : d.firstFree = none ↔ ∀ k, d.owns k .free = false := by
  unfold Device.firstFree
  rw [List.findIdx?_eq_none_iff]
  constructor
  · intro h k
    by_contra hk
    rw [Bool.not_eq_false] at hk
    obtain ⟨b, hb, ho⟩ := Device.owns_eq_true.1 hk
    have := h b (List.mem_of_getElem? hb)
    simp [ho] at this
  · intro h b hb
    obtain ⟨k, hk⟩ := List.mem_iff_getElem?.1 hb
    have := h k
    simpa [Device.owns, hk] using this

/-- Everything a snapshot does: the lowest free buffer is filled and queued, or, with none free, the drop is counted. -/
theorem Device.snapshot_cases (d : Device) (mem : Memory) :
    (∃ k, d.owns k .free = true ∧ (∀ j, j < k → d.owns j .free = false) ∧
      d.snapshot mem = { d with buffers := d.buffers.set k ⟨.queued, frameOf mem⟩, queue := d.queue ++ [k] }) ∨
    ((∀ k, d.owns k .free = false) ∧ d.snapshot mem = { d with drops := d.drops + 1 }) := by
  unfold Device.snapshot
  split
  · next k hk => exact .inl ⟨k, (Device.firstFree_eq_some.1 hk).1, (Device.firstFree_eq_some.1 hk).2, rfl⟩
  · next hn => exact .inr ⟨Device.firstFree_eq_none.1 hn, rfl⟩

/-- The lowest free buffer is taken. -/
theorem Device.snapshot_taken {d : Device} {k : Nat} (hk : d.owns k .free = true) (hj : ∀ j, j < k → d.owns j .free = false)
    (mem : Memory) :
    d.snapshot mem = { d with buffers := d.buffers.set k ⟨.queued, frameOf mem⟩, queue := d.queue ++ [k] } := by
  simp [Device.snapshot, Device.firstFree_eq_some.2 ⟨hk, hj⟩]

/-- With no free buffer the snapshot is dropped and counted. -/
theorem Device.snapshot_dropped {d : Device} (h : ∀ k, d.owns k .free = false) (mem : Memory) :
    d.snapshot mem = { d with drops := d.drops + 1 } := by
  simp [Device.snapshot, Device.firstFree_eq_none.2 h]

@[simp] theorem Device.poolN_snapshot (d : Device) (mem : Memory) : (d.snapshot mem).poolN = d.poolN := by
  unfold Device.snapshot; split <;> simp [Device.poolN]

/-- The owner of `j` after buffer `k` was filled and queued. -/
theorem Device.owns_filled (d : Device) {k : Nat} (hk : k < d.poolN) (bytes : Memory) (q : List Nat) (j : Nat) (o : Owner) :
    Device.owns { d with buffers := d.buffers.set k ⟨.queued, bytes⟩, queue := q } j o
      = if k = j then (Owner.queued == o) else d.owns j o := by
  unfold Device.owns
  simp only [List.getElem?_set]
  by_cases h : k = j
  · have : k < d.buffers.length := hk
    simp [h ▸ this, h]
  · simp [h]

theorem Device.getElem?_filled (d : Device) (k : Nat) (b : FrameBuffer) (q : List Nat) {j : Nat} (h : k ≠ j) :
    (Device.buffers { d with buffers := d.buffers.set k b, queue := q })[j]? = d.buffers[j]? := by
  simp [List.getElem?_set_ne h]

/-- Byte `o` of a snapshot's frame is `MEM[0x2400 + o]`. -/
theorem read_frameOf (mem : Memory) (o : Nat) :
    Memory.read (frameOf mem) o = if o < vramLen then Memory.read mem (vramBase + o) else 0#8 :=
  Memory.read_slice mem vramBase vramLen o

/-- Inside a firing POLL the producer takes the snapshot and is done. -/
theorem State.produce_inside {s : State} {d : Device} (hd : s.dev = some d) (hp : s.inPoll = true) :
    s.produce = .next { s with dev := some (d.snapshot s.mem), inPoll := false, result := .done } := by
  unfold State.produce
  rw [State.onDevice_some hd, if_pos hp]

/-- Outside a POLL the producer has no step. -/
theorem State.produce_outside {s : State} {d : Device} (hd : s.dev = some d) (hp : s.inPoll = false) :
    s.produce = .next { s with result := .noStep .insidePollOnly } := by
  unfold State.produce
  rw [State.onDevice_some hd, if_neg (by simp [hp]), State.refuse_eq]

/-- A firing poll for the frame interrupt takes the snapshot and leaves no POLL under way. -/
theorem State.fire_frame {s : State} {d : Device} (h : d.next = s.params.frameIrq) (t : Time) :
    s.fire d t = .next { s with
      dev := some ((d.turn t).snapshot s.mem), inPoll := false, result := .isr (rasterIsr d.next) } := by
  unfold State.fire
  rw [if_pos h, State.produce_inside rfl rfl]
  rfl

/-- Any other firing poll takes none. -/
theorem State.fire_other {s : State} {d : Device} (h : d.next ≠ s.params.frameIrq) (t : Time) :
    s.fire d t = .next { s with dev := some (d.turn t), result := .isr (rasterIsr d.next) } := by
  unfold State.fire
  rw [if_neg h, State.finish_eq]

theorem Device.fires_eq_true {d : Device} {t : Time} : d.fires t = true ↔ d.lastT ≠ some t := by
  unfold Device.fires
  split
  · next h => simp [h]
  · next u h =>
    rw [h, decide_eq_true_iff, ne_eq, ne_eq, Option.some.injEq]
    exact not_congr eq_comm

/-- `owns` looks at the buffers alone. -/
theorem Device.owns_congr {d d' : Device} (h : d.buffers = d'.buffers) (k : Nat) (o : Owner) : d.owns k o = d'.owns k o := by
  simp [Device.owns, h]

end Sys2Proof.Machine
end

