-- ==== Sys2Proof/Laws/Operands.lean ====
section
/-! SUPPORT. What the operand forms and the flag computations give, bit by bit. -/

namespace Sys2Proof.Machine

/-! ## The shift register -/

/-- Bit `j` of the window is bit `j + 8 - SHAMT` of the register. -/
theorem shiftWindow_getLsbD (shift : Half) (shamt : BitVec 3) (j : Nat) :
    (shiftWindow shift shamt).getLsbD j = (decide (j < 8) && shift.getLsbD (j + 8 - shamt.toNat)) := by
  have h : shamt.toNat < 8 := shamt.isLt
  unfold shiftWindow
  rw [BitVec.getLsbD_extractLsb', BitVec.getLsbD_ushiftRight]
  congr 2
  omega

theorem shiftIn_getLsbD (shift : Half) (d : Byte) (j : Nat) :
    (shiftIn shift d).getLsbD j = if j < 8 then shift.getLsbD (8 + j) else d.getLsbD (j - 8) := by
  unfold shiftIn
  rw [BitVec.getLsbD_append]
  split <;> simp_all

/-- Two data writes define the register, whatever it held. -/
theorem shiftIn_shiftIn (shift : Half) (a b : Byte) : shiftIn (shiftIn shift a) b = b ++ a := by
  apply BitVec.eq_of_getLsbD_eq
  intro j hj
  rw [shiftIn_getLsbD, shiftIn_getLsbD, BitVec.getLsbD_append]
  split <;> simp_all

theorem shiftAmount_toNat (d : Byte) : (shiftAmount d).toNat = d.toNat % 8 := by
  unfold shiftAmount
  rw [BitVec.extractLsb'_toNat]
  simp

/-! ## The sound ports -/

theorem rise_getLsbD (d prev : Byte) (i : Nat) : (rise d prev).getLsbD i = (d.getLsbD i && !prev.getLsbD i) := by
  by_cases hi : i < 8
  · simp [rise, hi]
  · simp [rise, BitVec.getLsbD_of_ge d i (by omega)]

theorem triggerA_getLsbD (d prev : Byte) (i : Nat) :
    (triggerA d prev).getLsbD i
      = if i = 0 then d.getLsbD 0 || prev.getLsbD 0 else d.getLsbD i && !prev.getLsbD i := by
  unfold triggerA
  rw [BitVec.getLsbD_or, BitVec.getLsbD_and, BitVec.getLsbD_and, BitVec.getLsbD_or, rise_getLsbD]
  by_cases hi : i < 8
  · have : ∀ k : Fin 8, (0xFE#8).getLsbD k.val = !decide (k.val = 0) ∧ (0x01#8).getLsbD k.val = decide (k.val = 0) := by
      decide
    obtain ⟨h1, h2⟩ := this ⟨i, hi⟩
    simp only at h1 h2
    rw [h1, h2]
    by_cases h0 : i = 0 <;> simp [h0]
  · have h0 : i ≠ 0 := by omega
    simp [h0, BitVec.getLsbD_of_ge _ i (show 8 ≤ i by omega)]

/-! ## The input ports -/

theorem byteOfBits_getLsbD (b0 b1 b2 b3 b4 b5 b6 b7 : Bool) :
    (byteOfBits b0 b1 b2 b3 b4 b5 b6 b7).getLsbD 0 = b0 ∧ (byteOfBits b0 b1 b2 b3 b4 b5 b6 b7).getLsbD 1 = b1 ∧
    (byteOfBits b0 b1 b2 b3 b4 b5 b6 b7).getLsbD 2 = b2 ∧ (byteOfBits b0 b1 b2 b3 b4 b5 b6 b7).getLsbD 3 = b3 ∧
    (byteOfBits b0 b1 b2 b3 b4 b5 b6 b7).getLsbD 4 = b4 ∧ (byteOfBits b0 b1 b2 b3 b4 b5 b6 b7).getLsbD 5 = b5 ∧
    (byteOfBits b0 b1 b2 b3 b4 b5 b6 b7).getLsbD 6 = b6 ∧ (byteOfBits b0 b1 b2 b3 b4 b5 b6 b7).getLsbD 7 = b7 := by
  cases b0 <;> cases b1 <;> cases b2 <;> cases b3 <;> cases b4 <;> cases b5 <;> cases b6 <;> cases b7 <;> decide

theorem LineId.index_inj {a b : LineId} (h : a.index = b.index) : a = b := by
  revert h; cases a <;> cases b <;> decide

@[simp] theorem LineBits.get_none (id : LineId) : LineBits.none.get id = false := by
  cases id <;> rfl

/-- A line's bit after a bit was replaced. -/
theorem LineBits.get_set (l : LineBits) (a b : LineId) (v : Bool) :
    (l.set a v).get b = if a = b then v else l.get b := by
  unfold LineBits.set LineBits.get
  by_cases h : a = b
  · subst h; simp
  · have hne : (a.index : Nat) ≠ (b.index : Nat) := fun e => h (LineId.index_inj (Fin.ext e))
    simp [h, Vector.getElem_set_ne _ _ hne]

/-- What one sampling reports. -/
theorem State.sampleLine_fst (s : State) (id : LineId) (prev : LineBits) :
    (s.sampleLine id prev).1
      = if s.params.edgeLines.get id && !s.inPlay then s.lines.get id && !prev.get id else s.lines.get id := by
  unfold State.sampleLine
  cases s.params.edgeLines.get id <;> cases s.inPlay <;> rfl

/-- What one sampling leaves in `EDGE_PREV`. -/
theorem State.sampleLine_snd (s : State) (id : LineId) (prev : LineBits) (j : LineId) :
    (s.sampleLine id prev).2.get j
      = if id = j ∧ s.params.edgeLines.get id = true then s.lines.get id else prev.get j := by
  unfold State.sampleLine
  cases h : s.params.edgeLines.get id
  · simp
  · by_cases hj : id = j <;> simp [LineBits.get_set, hj]

/-- With no edge-sampled line a port read reports levels and leaves `EDGE_PREV`. -/
theorem State.sampleSource_level {s : State} (h : s.params.edgeLines = LineBits.none) (src : BitSource) (prev : LineBits) :
    s.sampleSource src prev
      = (match src with | .line id => s.lines.get id | .fixed level => level, prev) := by
  cases src with
  | fixed level => rfl
  | line id => simp [State.sampleSource, State.sampleLine, h]

/-- With no edge-sampled line a whole port read leaves `EDGE_PREV`. -/
theorem State.samplePort_level {s : State} (h : s.params.edgeLines = LineBits.none) (pm : PortMap) (prev : LineBits) :
    (s.samplePort pm prev).2 = prev := by
  simp [State.samplePort, State.sampleSource_level h]

/-- What a read of an input port does to a device. -/
theorem State.readInput_eq {s : State} {d : Device} (h : s.dev = some d) (pm : PortMap) :
    s.readInput pm = .next { s with
      dev := some { d with edgePrev := (s.samplePort pm d.edgePrev).2 },
      result := .value (s.samplePort pm d.edgePrev).1 } :=
  State.onDevice_some h _

/-! ## Pixels -/

/-- The set pixels are exactly the pixels that are set. -/
theorem mem_setPixels {src : Memory} {L p : Nat} :
    (L, p) ∈ setPixels src ↔ L < srcLines ∧ p < srcLinePix ∧ px src L p = true := by
  unfold setPixels px srcLines srcLinePix srcLineBytes vramLen
  simp only [List.mem_flatMap, List.mem_map, List.mem_filter, List.mem_range, decide_eq_true_eq, Prod.mk.injEq]
  constructor
  · rintro ⟨c, ⟨_, hc⟩, b, ⟨hb, hset⟩, hL, hp⟩
    refine ⟨by omega, by omega, ?_⟩
    have h1 : 32 * L + p / 8 = c.1 := by omega
    have h2 : p % 8 = b := by omega
    rw [h1, h2]
    exact hset
  · rintro ⟨hL, hp, hset⟩
    have hne : Memory.read src (32 * L + p / 8) ≠ 0#8 := by
      intro h0
      rw [h0, BitVec.getLsbD_zero] at hset
      exact Bool.false_ne_true hset
    obtain ⟨c, hc, hcd⟩ := Memory.listed_of_read_ne hne
    refine ⟨c, ⟨hc, by omega⟩, p % 8, ⟨by omega, ?_⟩, by omega, by omega⟩
    rw [hcd]
    exact hset

end Sys2Proof.Machine
end

