-- ==== Sys2Proof/Laws/Blit.lean ====
section
/-! SUPPORT. What each mode of BLIT leaves in the destination, in the closed forms of spec/44_video_blitter.md rules R202 to
R206, and everything the shared operation `State.blit` can do. -/

namespace Sys2Proof.Machine

/-! ## Rows -/

/-- The offsets of a picture: row `r` below 256, byte `c` of the row. -/
theorem inRows_iff {row stride o : Nat} (h : row ≤ stride) :
    inRows row stride o = true ↔ ∃ r c, r < 256 ∧ c < row ∧ o = r * stride + c := by
  unfold inRows srcLinePix
  rw [Bool.and_eq_true, decide_eq_true_eq, decide_eq_true_eq]
  constructor
  · rintro ⟨h1, h2⟩
    exact ⟨o / stride, o % stride, h1, h2, by rw [Nat.mul_comm]; exact (Nat.div_add_mod o stride).symm⟩
  · rintro ⟨r, c, hr, hc, rfl⟩
    have hs : 0 < stride := by omega
    have hcs : c < stride := by omega
    have h1 : (r * stride + c) / stride = r := by
      rw [Nat.mul_comm, Nat.mul_add_div hs, Nat.div_eq_of_lt hcs]; rfl
    have h2 : (r * stride + c) % stride = c := by
      rw [Nat.mul_comm, Nat.mul_add_mod, Nat.mod_eq_of_lt hcs]
    rw [h1, h2]
    exact ⟨hr, hc⟩

/-- A place of a picture has one row and one column. -/
theorem row_unique {stride r r' c c' : Nat} (hc : c < stride) (hc' : c' < stride) (h : r * stride + c = r' * stride + c') :
    r = r' ∧ c = c' := by
  have hs : 0 < stride := by omega
  have e1 : (r * stride + c) / stride = r := by
    rw [Nat.mul_comm, Nat.mul_add_div hs, Nat.div_eq_of_lt hc]; rfl
  have e2 : (r' * stride + c') / stride = r' := by
    rw [Nat.mul_comm, Nat.mul_add_div hs, Nat.div_eq_of_lt hc']; rfl
  have : r = r' := by rw [← e1, ← e2, h]
  subst this
  exact ⟨rfl, by omega⟩

/-! ## Marks of set pixels -/

theorem marksAt_pixels (src : Memory) (f : Nat × Nat → Host.Cell) (o j : Nat) :
    (marksAt ((setPixels src).map f) o).getLsbD j = true ↔
      ∃ L p, L < srcLines ∧ p < srcLinePix ∧ px src L p = true ∧ (f (L, p)).1 = o ∧ (f (L, p)).2.getLsbD j = true := by
  rw [marksAt_getLsbD]
  constructor
  · rintro ⟨c, hc, hco, hj⟩
    obtain ⟨⟨L, p⟩, hq, rfl⟩ := List.mem_map.1 hc
    obtain ⟨hL, hp, hx⟩ := mem_setPixels.1 hq
    exact ⟨L, p, hL, hp, hx, hco, hj⟩
  · rintro ⟨L, p, hL, hp, hx, hco, hj⟩
    exact ⟨f (L, p), List.mem_map.2 ⟨(L, p), mem_setPixels.2 ⟨hL, hp, hx⟩, rfl⟩, hco, hj⟩

/-- Where a pixel's place is its own, its mark alone decides the byte there. -/
theorem marksAt_pixel_byte {src : Memory} {place : Nat × Nat → Nat} {colour : Byte} {L p : Nat}
    (hL : L < srcLines) (hp : p < srcLinePix)
    (hinj : ∀ L' p', L' < srcLines → p' < srcLinePix → place (L', p') = place (L, p) → L' = L ∧ p' = p) :
    marksAt ((setPixels src).map fun q => (place q, colour)) (place (L, p)) = if px src L p then colour else 0#8 := by
  apply BitVec.eq_of_getLsbD_eq
  intro j _
  rw [Bool.eq_iff_iff, marksAt_pixels]
  constructor
  · rintro ⟨L', p', hL', hp', hx, he, hj⟩
    obtain ⟨rfl, rfl⟩ := hinj L' p' hL' hp' he
    simpa [hx] using hj
  · intro hj
    by_cases hx : px src L p = true
    · exact ⟨L, p, hL, hp, hx, rfl, by simpa [hx] using hj⟩
    · simp [hx] at hj

/-! ## The four modes -/

/-- Native: the written bytes are the source's, every other byte is left. -/
theorem read_paintNative (m : Memory) (dst : DstBuf) (src : Memory) (a : Nat) :
    Memory.read (paintNative m dst src) a
      = if dst.base ≤ a ∧ a < dst.base + vramLen then Memory.read src (a - dst.base) else Memory.read m a := by
  unfold paintNative
  by_cases h : dst.base ≤ a ∧ a < dst.base + vramLen
  · have ha : a = dst.base + (a - dst.base) := by omega
    have ho : a - dst.base < vramLen := by omega
    rw [if_pos h]
    conv_lhs => rw [ha]
    rw [Memory.read_paint_inside (by simpa using ho)]
    apply BitVec.eq_of_getLsbD_eq
    intro j _
    rw [Bool.eq_iff_iff, marksAt_getLsbD]
    constructor
    · rintro ⟨c, hc, hco, hj⟩
      obtain ⟨e, _, rfl⟩ := List.mem_map.1 hc
      simp only at hco hj
      rwa [hco] at hj
    · intro hj
      have hne : Memory.read src (a - dst.base) ≠ 0#8 := by
        intro h0
        rw [h0, BitVec.getLsbD_zero] at hj
        exact Bool.false_ne_true hj
      obtain ⟨c, hc, hcd⟩ := Memory.listed_of_read_ne hne
      exact ⟨(c.1, Memory.read src c.1), List.mem_map.2 ⟨c, by simpa [hc, hcd] using ho, rfl⟩, hcd, by simpa [hcd] using hj⟩
  · rw [if_neg h]
    refine Memory.read_paint_outside (fun c hc => ?_) fun hx => h ⟨hx.1, ?_⟩
    · obtain ⟨e, he, rfl⟩ := List.mem_map.1 hc
      exact (List.mem_filter.1 he).2
    · have := hx.2
      simp only [decide_eq_true_eq] at this
      omega

/-- Rgb332: pixel `(L, p)` at row `255 - p`, column `L`. -/
theorem read_paintRgb332 {m : Memory} {dst : DstBuf} {src : Memory} {stride : Nat} {colour : Byte} {L p : Nat}
    (hs : srcLines ≤ stride) (hL : L < srcLines) (hp : p < srcLinePix) :
    Memory.read (paintRgb332 m dst src stride colour) (dst.base + ((255 - p) * stride + L))
      = if px src L p then colour else 0#8 := by
  have hp' : p < 256 := hp
  unfold paintRgb332
  rw [Memory.read_paint_inside ((inRows_iff hs).2 ⟨255 - p, L, by omega, hL, rfl⟩)]
  refine marksAt_pixel_byte (place := fun q => (255 - q.2) * stride + q.1) hL hp fun L' p' hL' hp'' he => ?_
  have hp3 : p' < 256 := hp''
  obtain ⟨h1, h2⟩ := row_unique (by omega) (by omega) he
  exact ⟨h2, by omega⟩

theorem paintRgb332_outside {m : Memory} {dst : DstBuf} {src : Memory} {stride : Nat} {colour : Byte} {a : Nat}
    (hs : srcLines ≤ stride) (h : ¬ ∃ r c, r < 256 ∧ c < srcLines ∧ a = dst.base + (r * stride + c)) :
    Memory.read (paintRgb332 m dst src stride colour) a = Memory.read m a := by
  unfold paintRgb332
  refine Memory.read_paint_outside (fun c hc => ?_) fun hx => h ?_
  · obtain ⟨⟨L, p⟩, hq, rfl⟩ := List.mem_map.1 hc
    obtain ⟨hL, hp, _⟩ := mem_setPixels.1 hq
    have hp' : p < 256 := hp
    exact (inRows_iff hs).2 ⟨255 - p, L, by omega, hL, rfl⟩
  · obtain ⟨r, c, hr, hc, he⟩ := (inRows_iff hs).1 hx.2
    exact ⟨r, c, hr, hc, by omega⟩

theorem bit_of_shift {k j : Nat} (hk : k < 8) (hj : j < 8) : ((1#8 <<< k).getLsbD j) = decide (k = j) := by
  have : ∀ k j : Fin 8, ((1#8 <<< k.val).getLsbD j.val) = decide (k.val = j.val) := by decide
  exact this ⟨k, hk⟩ ⟨j, hj⟩

/-- Upright: bit `j` of the byte at row `255 - p`, byte column `k`, is pixel `p` of line `8 k + j`. -/
theorem read_paintUpright {m : Memory} {dst : DstBuf} {src : Memory} {stride : Nat} {k p j : Nat}
    (hs : uprightRowBytes ≤ stride) (hk : k < uprightRowBytes) (hp : p < srcLinePix) (hj : j < 8) :
    (Memory.read (paintUpright m dst src stride) (dst.base + ((255 - p) * stride + k))).getLsbD j = px src (8 * k + j) p := by
  have hp' : p < 256 := hp
  have hk' : k < 28 := hk
  unfold paintUpright
  rw [Memory.read_paint_inside ((inRows_iff hs).2 ⟨255 - p, k, by omega, hk, rfl⟩), Bool.eq_iff_iff, marksAt_pixels]
  constructor
  · rintro ⟨L', p', hL', hp'', hx, he, hb⟩
    have hp3 : p' < 256 := hp''
    have hL3 : L' < 224 := hL'
    have hs' : 28 ≤ stride := hs
    simp only at he hb
    obtain ⟨h1, h2⟩ := row_unique (stride := stride) (by omega) (by omega) he
    rw [bit_of_shift (by omega) hj, decide_eq_true_eq] at hb
    have e1 : 8 * k + j = L' := by omega
    have e2 : p = p' := by omega
    rw [e1, e2]
    exact hx
  · intro hx
    have hL : 8 * k + j < 224 := by omega
    refine ⟨8 * k + j, p, hL, hp, hx, ?_, ?_⟩
    · show (255 - p) * stride + (8 * k + j) / 8 = (255 - p) * stride + k
      omega
    · show ((1#8 <<< ((8 * k + j) % 8)).getLsbD j) = true
      rw [bit_of_shift (by omega) hj, decide_eq_true_eq]
      omega

theorem paintUpright_outside {m : Memory} {dst : DstBuf} {src : Memory} {stride : Nat} {a : Nat}
    (hs : uprightRowBytes ≤ stride) (h : ¬ ∃ r c, r < 256 ∧ c < uprightRowBytes ∧ a = dst.base + (r * stride + c)) :
    Memory.read (paintUpright m dst src stride) a = Memory.read m a := by
  unfold paintUpright
  refine Memory.read_paint_outside (fun c hc => ?_) fun hx => h ?_
  · obtain ⟨⟨L, p⟩, hq, rfl⟩ := List.mem_map.1 hc
    obtain ⟨hL, hp, _⟩ := mem_setPixels.1 hq
    have hp' : p < 256 := hp
    have hL' : L < 224 := hL
    exact (inRows_iff hs).2 ⟨255 - p, L / 8, by omega, by show L / 8 < 28; omega, rfl⟩
  · obtain ⟨r, c, hr, hc, he⟩ := (inRows_iff hs).1 hx.2
    exact ⟨r, c, hr, hc, by omega⟩

/-- Upright8bpp, linear: pixel `(L, p)` at `256 L + p`. -/
theorem read_paintLinear {m : Memory} {dst : DstBuf} {src : Memory} {colour : Byte} {L p : Nat}
    (hL : L < srcLines) (hp : p < srcLinePix) :
    Memory.read (paintLinear m dst src colour) (dst.base + (srcLinePix * L + p)) = if px src L p then colour else 0#8 := by
  have hp' : p < 256 := hp
  have hL' : L < 224 := hL
  unfold paintLinear
  rw [Memory.read_paint_inside (by rw [decide_eq_true_eq]; show 256 * L + p < 57344; omega)]
  refine marksAt_pixel_byte (place := fun q => srcLinePix * q.1 + q.2) hL hp fun L' p' hL' hp'' he => ?_
  have hp3 : p' < 256 := hp''
  simp only [srcLinePix] at he
  omega

theorem paintLinear_outside {m : Memory} {dst : DstBuf} {src : Memory} {colour : Byte} {a : Nat}
    (h : ¬ (dst.base ≤ a ∧ a < dst.base + framePixels)) :
    Memory.read (paintLinear m dst src colour) a = Memory.read m a := by
  unfold paintLinear
  refine Memory.read_paint_outside (fun c hc => ?_) fun hx => h ⟨hx.1, ?_⟩
  · obtain ⟨⟨L, p⟩, hq, rfl⟩ := List.mem_map.1 hc
    obtain ⟨hL, hp, _⟩ := mem_setPixels.1 hq
    have hp' : p < 256 := hp
    have hL' : L < 224 := hL
    rw [decide_eq_true_eq]
    show 256 * L + p < 57344
    omega
  · have := hx.2
    simp only [decide_eq_true_eq] at this
    omega

/-! ## The canonical form of the destination -/

theorem wf_paintNative {m : Memory} (h : Memory.wf m) (dst : DstBuf) (src : Memory) : Memory.wf (paintNative m dst src) :=
  Memory.wf_paint h _ _ _

theorem wf_paintRgb332 {m : Memory} (h : Memory.wf m) (dst : DstBuf) (src : Memory) (stride : Nat) (colour : Byte) :
    Memory.wf (paintRgb332 m dst src stride colour) :=
  Memory.wf_paint h _ _ _

theorem wf_paintUpright {m : Memory} (h : Memory.wf m) (dst : DstBuf) (src : Memory) (stride : Nat) :
    Memory.wf (paintUpright m dst src stride) :=
  Memory.wf_paint h _ _ _

theorem wf_paintLinear {m : Memory} (h : Memory.wf m) (dst : DstBuf) (src : Memory) (colour : Byte) :
    Memory.wf (paintLinear m dst src colour) :=
  Memory.wf_paint h _ _ _

/-! ## The shared operation -/

theorem State.sourceBytes_frame {s : State} {d : Device} {k : Nat} :
    s.sourceBytes d (.frame k) = none ↔ d.owns k .held = false := by
  unfold State.sourceBytes Device.owns
  cases h : d.buffers[k]? with
  | none => simp [h]
  | some b => by_cases ho : b.owner = .held <;> simp [h, ho]

/-- Everything BLIT can do: no device, one of the refusals, or HOST's memory painted. -/
theorem State.blit_cases {s : State} {sub : BitVec 2} {dst : DstBuf} {src : Source} {fits : Bool}
    {paint : Device → Memory → Memory} {t : State} (h : s.blit sub dst src fits paint = .next t) :
    (∃ r, t = { s with result := .noStep r }) ∨
      ∃ d bytes, s.dev = some d ∧ s.sourceBytes d src = some bytes ∧ d.mode = sub ∧ dstOverlaps dst src = false ∧
        fits = true ∧ t = { s with hostMem := paint d bytes, result := .done } := by
  rcases State.onDevice_cases h with ⟨_, ht⟩ | ⟨d, hd, h⟩
  · exact .inl ⟨_, ht⟩
  · split at h
    · exact .inl ⟨.notHeld, by simpa [State.refuse] using h.symm⟩
    · next bytes hb =>
      split at h
      · exact .inl ⟨.subNotMode, by simpa [State.refuse] using h.symm⟩
      · next hm =>
        split at h
        · exact .inl ⟨.overlap, by simpa [State.refuse] using h.symm⟩
        · next ho =>
          split at h
          · exact .inl ⟨.tooSmall, by simpa [State.refuse] using h.symm⟩
          · next hf =>
            refine .inr ⟨d, bytes, hd, hb, by simpa using hm, by simpa using ho, by simpa using hf, ?_⟩
            simpa using h.symm

/-- Whatever a BLIT does, it answers a next state that differs in HOST's memory and the answer alone. -/
theorem State.blit_next (s : State) (sub : BitVec 2) (dst : DstBuf) (src : Source) (fits : Bool)
    (paint : Device → Memory → Memory) :
    ∃ m r, s.blit sub dst src fits paint = .next { s with hostMem := m, result := r } := by
  unfold State.blit
  cases hd : s.dev with
  | none => exact ⟨s.hostMem, .noStep .noDevice, by rw [State.onDevice_none hd, hd]⟩
  | some d =>
    rw [State.onDevice_some hd]
    cases s.sourceBytes d src with
    | none => exact ⟨s.hostMem, .noStep .notHeld, by simp [State.refuse, hd]⟩
    | some bytes =>
      by_cases hm : d.mode = sub
      · cases dstOverlaps dst src
        · cases fits
          · exact ⟨s.hostMem, .noStep .tooSmall, by simp [hm, hd, State.refuse]⟩
          · exact ⟨paint d bytes, .done, by simp [hm]⟩
        · exact ⟨s.hostMem, .noStep .overlap, by simp [hm, hd, State.refuse]⟩
      · exact ⟨s.hostMem, .noStep .subNotMode, by simp [hm, hd, State.refuse]⟩

/-- BLIT runs where the source is held, the word is the mode's, nothing overlaps and the destination is large enough. -/
theorem State.blit_runs {s : State} {d : Device} {sub : BitVec 2} {dst : DstBuf} {src : Source} {fits : Bool} {bytes : Memory}
    (hd : s.dev = some d) (hb : s.sourceBytes d src = some bytes) (hm : d.mode = sub) (ho : dstOverlaps dst src = false)
    (hf : fits = true) (paint : Device → Memory → Memory) :
    s.blit sub dst src fits paint = .next { s with hostMem := paint d bytes, result := .done } := by
  unfold State.blit
  rw [State.onDevice_some hd]
  simp [hb, hm, ho, hf]

end Sys2Proof.Machine
end

