-- ==== Sys2Proof/Laws/PerInstr.lean ====
section
/-! SUPPORT. The per-instruction family RowMatch: the selector the encoder gives an instruction lies in that instruction's row
of spec/opcode_table.json (its match under its mask), in the row's format. -/

namespace Sys2Proof.Laws.RowMatch

/-- A row of the table: format, match, mask. -/
structure Row where
  format : Format
  value : Nat
  mask : Nat
deriving DecidableEq, Repr

/-- Each instruction's row (spec/30_encoding.md rules R91, R92). -/
def row : Instr → Row
  | .in0 => ⟨.pt, 0x000, 0x1FF⟩
  | .in1 => ⟨.pt, 0x001, 0x1FF⟩
  | .in2 => ⟨.pt, 0x002, 0x1FF⟩
  | .in3 => ⟨.pt, 0x003, 0x1FF⟩
  | .in6 => ⟨.pt, 0x006, 0x1FF⟩
  | .inUnmapped _ => ⟨.pt, 0x000, 0x100⟩
  | .out2 _ => ⟨.pt, 0x102, 0x1FF⟩
  | .out3 _ => ⟨.pt, 0x103, 0x1FF⟩
  | .out4 _ => ⟨.pt, 0x104, 0x1FF⟩
  | .out5 _ => ⟨.pt, 0x105, 0x1FF⟩
  | .out6 _ => ⟨.pt, 0x106, 0x1FF⟩
  | .outUnmapped _ _ => ⟨.pt, 0x100, 0x100⟩
  | .construct _ => ⟨.hc, 0x00, 0xFF⟩
  | .poll _ => ⟨.hc, 0x10, 0xFF⟩
  | .setquit => ⟨.hc, 0x20, 0xFF⟩
  | .reqload => ⟨.hc, 0x30, 0xFF⟩
  | .reqsave => ⟨.hc, 0x40, 0xFF⟩
  | .dequeue => ⟨.hc, 0x50, 0xFF⟩
  | .giveBack _ => ⟨.hc, 0x60, 0xFF⟩
  | .blitNative _ _ _ => ⟨.hc, 0x70, 0xFF⟩
  | .blitRgb332 _ _ _ => ⟨.hc, 0x71, 0xFF⟩
  | .blitUpright _ _ _ => ⟨.hc, 0x72, 0xFF⟩
  | .blitUpright8bpp _ _ _ => ⟨.hc, 0x73, 0xFF⟩
  | .snapshot => ⟨.hc, 0xF0, 0xFF⟩

/-- The selector bytes as one number, the first byte least significant. -/
def word : List Byte → Nat
  | [] => 0
  | b :: rest => b.toNat + 256 * word rest

/-- The encoder's selector lies in the instruction's row. -/
def Statement (i : Instr) : Prop :=
  i.wellFormed = true →
    (encode i).format = (row i).format ∧ word (encode i).selector &&& (row i).mask = (row i).value

theorem read_word (p : Byte) : word [p, 0] &&& 0x100 = 0x000 := by revert p; decide
theorem write_word (p : Byte) : word [p, 1] &&& 0x100 = 0x100 := by revert p; decide

theorem in0 : Statement .in0 := fun _ => ⟨rfl, by decide⟩
theorem in1 : Statement .in1 := fun _ => ⟨rfl, by decide⟩
theorem in2 : Statement .in2 := fun _ => ⟨rfl, by decide⟩
theorem in3 : Statement .in3 := fun _ => ⟨rfl, by decide⟩
theorem in6 : Statement .in6 := fun _ => ⟨rfl, by decide⟩
theorem inUnmapped (p : Byte) : Statement (.inUnmapped p) := fun _ => ⟨rfl, read_word p⟩
theorem out2 (d : Byte) : Statement (.out2 d) := fun _ => ⟨rfl, (by decide : word [2, 1] &&& 0x1FF = 0x102)⟩
theorem out3 (d : Byte) : Statement (.out3 d) := fun _ => ⟨rfl, (by decide : word [3, 1] &&& 0x1FF = 0x103)⟩
theorem out4 (d : Byte) : Statement (.out4 d) := fun _ => ⟨rfl, (by decide : word [4, 1] &&& 0x1FF = 0x104)⟩
theorem out5 (d : Byte) : Statement (.out5 d) := fun _ => ⟨rfl, (by decide : word [5, 1] &&& 0x1FF = 0x105)⟩
theorem out6 (d : Byte) : Statement (.out6 d) := fun _ => ⟨rfl, (by decide : word [6, 1] &&& 0x1FF = 0x106)⟩
theorem outUnmapped (p d : Byte) : Statement (.outUnmapped p d) := fun _ => ⟨rfl, write_word p⟩
theorem construct (cfg : Cfg) : Statement (.construct cfg) := fun _ => ⟨rfl, (by decide : word [0x00] &&& 0xFF = 0x00)⟩
theorem poll (t : Time) : Statement (.poll t) := fun _ => ⟨rfl, (by decide : word [0x10] &&& 0xFF = 0x10)⟩
theorem setquit : Statement .setquit := fun _ => ⟨rfl, by decide⟩
theorem reqload : Statement .reqload := fun _ => ⟨rfl, by decide⟩
theorem reqsave : Statement .reqsave := fun _ => ⟨rfl, by decide⟩
theorem dequeue : Statement .dequeue := fun _ => ⟨rfl, by decide⟩
theorem giveBack (k : Nat) : Statement (.giveBack k) := fun _ => ⟨rfl, (by decide : word [0x60] &&& 0xFF = 0x60)⟩
theorem blitNative (dst : DstBuf) (src : Source) (stride : Nat) : Statement (.blitNative dst src stride) :=
  fun _ => ⟨rfl, (by decide : word [0x70] &&& 0xFF = 0x70)⟩
theorem blitRgb332 (dst : DstBuf) (src : Source) (stride : Nat) : Statement (.blitRgb332 dst src stride) :=
  fun _ => ⟨rfl, (by decide : word [0x71] &&& 0xFF = 0x71)⟩
theorem blitUpright (dst : DstBuf) (src : Source) (stride : Nat) : Statement (.blitUpright dst src stride) :=
  fun _ => ⟨rfl, (by decide : word [0x72] &&& 0xFF = 0x72)⟩
theorem blitUpright8bpp (dst : DstBuf) (src : Source) (stride : Nat) : Statement (.blitUpright8bpp dst src stride) :=
  fun _ => ⟨rfl, (by decide : word [0x73] &&& 0xFF = 0x73)⟩
theorem snapshot : Statement .snapshot := fun _ => ⟨rfl, by decide⟩

end Sys2Proof.Laws.RowMatch
end

