-- ==== Sys2Proof/Laws/Trace.lean ====
section
/-! SUPPORT. Lists of operations and runs, one operation at a time. -/

namespace Sys2Proof.Machine

theorem execState_next {i : Instr} {s t : State} (h : exec i s = .next t) : execState i s = some t := by
  simp [execState, h]

@[simp] theorem execList_nil (s : State) : execList [] s = some (s, []) := rfl

/-- A list whose first operation answers `t` goes on from `t`. -/
theorem execList_cons {i : Instr} {s t : State} (h : exec i s = .next t) (rest : List Instr) :
    execList (i :: rest) s = (execList rest t).map fun x => (x.1, t.result :: x.2) := by
  simp only [execList, execState_next h]
  cases execList rest t <;> rfl

/-! ## The end of a run -/

theorem Result.endsRun_iff {r : Result} : r.endsRun = true ↔ r = .isr .quit := by
  cases r with
  | isr x => cases x <;> simp [Result.endsRun]
  | none | value _ | mask _ | buffer _ | device | configError _ | done | noStep _ => simp [Result.endsRun]

@[simp] theorem runList_nil (s : State) : runList [] s = some ⟨[], [], s, [], false⟩ := rfl

/-- The operation that answers `ISR_QUIT` ends the run, whatever follows it. -/
theorem runList_ends {i : Instr} {s t : State} (h : exec i s = .next t) (hq : t.result.endsRun = true) (rest : List Instr) :
    runList (i :: rest) s = some ⟨[i], [t.result], t, rest, true⟩ := by
  simp [runList, execState_next h, hq]

/-- Any other operation belongs to the run that goes on from the state it leaves. -/
theorem runList_goes_on {i : Instr} {s t : State} (h : exec i s = .next t) (hq : t.result.endsRun = false) (rest : List Instr) :
    runList (i :: rest) s
      = (runList rest t).map fun r => { r with inside := i :: r.inside, answers := t.result :: r.answers } := by
  simp only [runList, execState_next h, hq]
  cases runList rest t <;> rfl

/-- No step is taken after the end of the run. -/
theorem runSteps_ends {s t : State} (h : step s = .next t) (hq : t.result.endsRun = true) (k : Nat) :
    runSteps (k + 1) s = .next t := by
  simp [runSteps, h, hq]

theorem runSteps_goes_on {s t : State} (h : step s = .next t) (hq : t.result.endsRun = false) (k : Nat) :
    runSteps (k + 1) s = runSteps k t := by
  simp [runSteps, h, hq]

end Sys2Proof.Machine
end

