-- ==== Sys2Proof/Tests/Slice0.lean ====
section
/-! SUPPORT. Small tests of single steps, their expected results taken from spec/95_test_vectors.md (V1 to V11, S1 to S11) and from
the examples in the rules, and for every statement with hypotheses a concrete witness that meets them. -/

namespace Sys2Proof.Tests

open Sys2Proof Sys2Proof.Machine

/-! ## Helpers -/

/-- The device of the reset state. -/
def dev0 : Device := Device.fresh Params.default 1 0x14 2

/-- The reset state with another device. -/
def on (d : Device) : State := { State.reset with dev := some d }

/-- The reset state with other parameters. -/
def withParams (p : Params) : State := { State.reset with params := p }

/-- The answer of one operation. -/
def answer (i : Instr) (s : State) : Option Result := (execState i s).map State.result

/-- The device one operation leaves. -/
def after (i : Instr) (s : State) : Option Device := (execState i s).bind State.dev

/-- HOST's memory after one operation. -/
def hostAfter (i : Instr) (s : State) : Option Memory := (execState i s).map State.hostMem

/-- The device `d` with a firing POLL that has reached its SNAPSHOT. -/
def inside (d : Device) : State := { on d with inPoll := true }

/-- A device in a given blit mode whose one buffer HOST holds, one source byte set: `src[33]` = 0x80, that is `L` = 1, `p` = 15. -/
def heldDev (mode : BitVec 2) : Device :=
  { Device.fresh Params.default mode 0x14 1 with buffers := [⟨.held, [(33, 0x80)]⟩] }

/-- The reset lines with line `id` at 1. -/
def press (id : LineId) : State := { State.reset with lines := LineBits.none.set id true }

/-- The parameters with `P1_START` edge-sampled (rule R128's example). -/
def edgeParams : Params := { Params.default with edgeLines := LineBits.none.set .p1Start true }

/-- `P1_START` at 1 and edge-sampled outside play, the device `d`. -/
def held (d : Device) : State := { press .p1Start with params := edgeParams, inPlay := false, dev := some d }

/-! ## WellFormed: each check refuses an ill-formed term -/

theorem test_wf_in3_is_no_default : (Instr.inUnmapped 3).wellFormed = false := by decide
theorem test_wf_in6_is_no_default : (Instr.inUnmapped 6).wellFormed = false := by decide
theorem test_wf_in4_is_default : (Instr.inUnmapped 4).wellFormed = true := by decide
theorem test_wf_in255_is_default : (Instr.inUnmapped 255).wellFormed = true := by decide
theorem test_wf_out2_is_no_default : (Instr.outUnmapped 2 0).wellFormed = false := by decide
theorem test_wf_out6_is_no_default : (Instr.outUnmapped 6 0).wellFormed = false := by decide
theorem test_wf_out1_is_default : (Instr.outUnmapped 1 0).wellFormed = true := by decide
theorem test_wf_out7_is_default : (Instr.outUnmapped 7 0).wellFormed = true := by decide

/-! ## Decoder (V1; a word of each constructor stands beside the decoder itself) -/

theorem test_decode_in_last : decodeTableWord 16 0x0FF = some (.inUnmapped 255) := by decide
theorem test_decode_in_no_mirror : decodeTableWord 16 0x083 = some (.inUnmapped 131) := by decide
theorem test_decode_in7 : decodeTableWord 16 0x007 = some (.inUnmapped 7) := by decide
theorem test_decode_out0 : decodeTableWord 16 0x100 = some (.outUnmapped 0 0) := by decide
theorem test_decode_out_no_mirror : decodeTableWord 16 0x184 = some (.outUnmapped 132 0) := by decide
theorem test_decode_out4 : decodeTableWord 16 0x104 = some (.out4 0) := by decide
theorem test_decode_blit : decodeTableWord 8 0x72 = some (.blitUpright ⟨0, 0⟩ (.frame 0) 0) := by decide
theorem test_decode_refuses_0x11 : decodeTableWord 8 0x11 = none := by decide
theorem test_decode_refuses_0x74 : decodeTableWord 8 0x74 = none := by decide
theorem test_decode_refuses_0xFF : decodeTableWord 8 0xFF = none := by decide
theorem test_decode_selector_has_nine_bits : decodeTableWord 16 0x200 = none := by decide

/-! ## Port reads (V2, V6, V7; rules R120 to R125, R128) -/

theorem test_in0_idle : answer .in0 State.reset = some (.value 0x0E) := by decide
theorem test_in0_selftest : answer .in0 (press .dip4Selftest) = some (.value 0x0F) := by decide
theorem test_in1_credit : answer .in1 (press .credit) = some (.value 0x09) := by decide
/-- Rule R128's example: `EDGE_LINES` = P1_START, `in_play` false; the second read of the held line no longer sees the press. -/
theorem test_in1_edge :
    answer .in1 (held dev0) = some (.value 0x0C) ∧
    answer .in1 (held { dev0 with edgePrev := LineBits.none.set .p1Start true }) = some (.value 0x08) := by decide
theorem test_in2_tilt : answer .in2 (press .tilt) = some (.value 0x04) := by decide
theorem test_in2_coin_info : answer .in2 (press .dip7CoinInfo) = some (.value 0x80) := by decide
theorem test_in3_amount_zero : answer .in3 (on { dev0 with shift := 0xCDAB, shamt := 0 }) = some (.value 0xCD) := by decide
theorem test_in3_amount_five : answer .in3 (on { dev0 with shift := 0xA5C3, shamt := 5 }) = some (.value 0xB8) := by decide
theorem test_in6 : answer .in6 (on { dev0 with shift := 0xCDAB }) = some (.value 0x00) ∧
    after .in6 State.reset = some dev0 := by decide
theorem test_in4_signals : answer (.inUnmapped 4) State.reset = some (.value 0x00) ∧
    after (.inUnmapped 4) State.reset = some { dev0 with violRd := true } := by decide

/-! ## Port writes (V3 to V6; rules R141 to R146) -/

theorem test_out2_ignores_high_bits : after (.out2 0xFB) State.reset = some { dev0 with shamt := 3 } := by decide
theorem test_out2_mask : answer (.out2 0xFF) State.reset = some (.mask 0x00) := by decide
theorem test_out4_slides : after (.out4 0xCD) (on { dev0 with shift := 0xAB00 }) = some { dev0 with shift := 0xCDAB } := by decide
theorem test_out4_drops_low_byte : after (.out4 0x00) (on { dev0 with shift := 0xFFFF }) = some { dev0 with shift := 0x00FF } := by decide
theorem test_out3_edges : answer (.out3 0x3F) (on { dev0 with prevA := 0x02 }) = some (.mask 0x3D) ∧
    after (.out3 0x3F) (on { dev0 with prevA := 0x02 }) = some { dev0 with prevA := 0x3F } := by decide
theorem test_out3_bit0_falls : answer (.out3 0x02) (on { dev0 with prevA := 0x03 }) = some (.mask 0x01) := by decide
theorem test_out5_edges : answer (.out5 0xFF) (on { dev0 with prevB := 0x10 }) = some (.mask 0xEF) := by decide
theorem test_out5_bit0_held : answer (.out5 0x01) (on { dev0 with prevB := 0x01, prevA := 0x01 }) = some (.mask 0x00) := by decide
theorem test_out6 : answer (.out6 0xFF) State.reset = some (.mask 0x00) ∧ after (.out6 0xFF) State.reset = some dev0 := by decide
theorem test_out7_signals : answer (.outUnmapped 7 0x55) (on { dev0 with shift := 0xCDAB }) = some (.mask 0x00) ∧
    after (.outUnmapped 7 0x55) (on { dev0 with shift := 0xCDAB }) = some { dev0 with shift := 0xCDAB, violWr := true } := by decide
/-- Rule R102's two offsets. -/
theorem test_sample_index : sampleIndex 3 5 = 5 ∧ sampleIndex 5 4 = 12 := by decide

/-! ## Interrupt scheduler (V8; rules R160, R163 to R165) -/

/-- V8 steps 1 and 2. -/
theorem test_poll_first_fires : answer (.poll 100) State.reset = some (.isr .one) ∧
    answer (.poll 100) (on { dev0 with lastT := some 100, next := .two }) = some (.isr .none) := by decide
/-- V8 step 3: ISR_TWO takes the snapshot. -/
theorem test_poll_second_snapshots :
    answer (.poll 101) (on { dev0 with lastT := some 100, next := .two }) = some (.isr .two) ∧
    (after (.poll 101) (on { dev0 with lastT := some 100, next := .two })).map (fun d => (d.next, d.lastT, d.queue))
      = some (.one, some 101, [0]) := by decide
theorem test_setquit : after .setquit State.reset = some { dev0 with quit := true } := by decide
theorem test_reqload_replaces : after .reqload (on { dev0 with lsreq := .save }) = some { dev0 with lsreq := .load } := by decide
theorem test_reqsave_replaces : after .reqsave (on { dev0 with lsreq := .load }) = some { dev0 with lsreq := .save } := by decide
/-- The end of program P3: the run ends at the first POLL that returns ISR_QUIT, and the next poll lies outside it. -/
theorem test_run_ends :
    (runList [.poll 2, .poll 3] (on { dev0 with lastT := some 1, quit := true })).map (fun r => (r.answers, r.outside, r.ended))
      = some ([.isr .quit], [.poll 3], true) := by decide
/-- Without the quit flag the run does not end. -/
theorem test_run_open :
    (runList [.poll 1] State.reset).map (fun r => (r.answers, r.outside, r.ended)) = some ([.isr .one], [], false) := by decide
/-- The codes of rule R103. -/
theorem test_isr_codes : [Isr.one, .two, .load, .save, .quit, .none].map Isr.code = [1, 2, 8, 9, 10, 11] := by decide

/-! ## Frame pool (V9; rules R181, R182, R184, R185) -/

/-- V9: the two ends of video RAM are frame bytes 0 and 7167; the bytes beside it are in no frame. -/
theorem test_snapshot_ends :
    (after .snapshot { inside dev0 with mem := [(0x23FF, 0x11), (0x2400, 0x81), (0x3FFF, 0x7E), (0x4000, 0x22)] }).map Device.buffers
      = some [⟨.queued, [(0, 0x81), (7167, 0x7E)]⟩, ⟨.free, []⟩] := by decide
/-- Rules R90 and R180: presented from outside a POLL, SNAPSHOT has no step; the POLL that contains it is over after its one step. -/
theorem test_snapshot_outside : answer .snapshot State.reset = some (.noStep .insidePollOnly) ∧
    after .snapshot State.reset = some dev0 ∧
    (execState (.poll 101) (on { dev0 with next := .two })).map State.inPoll = some false := by decide
theorem test_snapshot_drops :
    after .snapshot (inside { dev0 with buffers := [⟨.held, []⟩, ⟨.queued, []⟩], queue := [1] })
      = some { dev0 with buffers := [⟨.held, []⟩, ⟨.queued, []⟩], queue := [1], drops := 1 } := by decide
/-- Rule R184's example: `QUEUE = [1, 0]`. -/
theorem test_dequeue_head :
    answer .dequeue (on { dev0 with buffers := [⟨.queued, []⟩, ⟨.queued, []⟩], queue := [1, 0] }) = some (.buffer 1) ∧
    after .dequeue (on { dev0 with buffers := [⟨.queued, []⟩, ⟨.queued, []⟩], queue := [1, 0] })
      = some { dev0 with buffers := [⟨.queued, []⟩, ⟨.held, []⟩], queue := [0] } := by decide
theorem test_dequeue_empty : answer .dequeue State.reset = some (.noStep .queueEmpty) := by decide
/-- Rule R185's example. -/
theorem test_return_held :
    after (.giveBack 1) (on { dev0 with buffers := [⟨.free, []⟩, ⟨.held, []⟩] })
      = some { dev0 with buffers := [⟨.free, []⟩, ⟨.free, []⟩] } := by decide
theorem test_return_twice : answer (.giveBack 1) State.reset = some (.noStep .notHeld) ∧
    answer (.giveBack 2) State.reset = some (.noStep .notHeld) := by decide

/-! ## Video blitter (V10; rules R202, R203, R205, R206) -/

theorem test_blit_native : hostAfter (.blitNative ⟨0, 7168⟩ (.frame 0) 0) (on (heldDev 0)) = some [(33, 0x80)] := by decide
/-- Old destination bytes are overwritten; the byte after the picture is kept (rule R79). -/
theorem test_blit_native_overwrites :
    hostAfter (.blitNative ⟨10, 7168⟩ (.frame 0) 0) { on (heldDev 0) with hostMem := [(9, 1), (10, 2), (7177, 3), (7178, 4)] }
      = some [(9, 1), (43, 0x80), (7178, 4)] := by decide
theorem test_blit_rgb332 : hostAfter (.blitRgb332 ⟨0, 57344⟩ (.frame 0) 224) (on (heldDev 1)) = some [(53761, 0x14)] := by decide
/-- Pitch 256: offset 61441; the padding byte at column 224 of row 0 is kept. -/
theorem test_blit_rgb332_pitch :
    hostAfter (.blitRgb332 ⟨0, 65504⟩ (.frame 0) 256) { on (heldDev 1) with hostMem := [(223, 7), (224, 9)] }
      = some [(224, 9), (61441, 0x14)] := by decide
theorem test_blit_upright : hostAfter (.blitUpright ⟨0, 7168⟩ (.frame 0) 28) (on (heldDev 2)) = some [(6720, 0x02)] := by decide
theorem test_blit_upright_pitch : hostAfter (.blitUpright ⟨0, 8188⟩ (.frame 0) 32) (on (heldDev 2)) = some [(7680, 0x02)] := by decide
theorem test_blit_upright8bpp :
    hostAfter (.blitUpright8bpp ⟨0, 57344⟩ (.frame 0) 0) (on (heldDev 3)) = some [(271, 0x14)] := by decide
/-- V10's whole-buffer case `src[0]` = 0xA5, the source HOST's own memory, the destination next to it. -/
theorem test_blit_upright8bpp_bits :
    hostAfter (.blitUpright8bpp ⟨7168, 57344⟩ (.host 0) 0) { on (heldDev 3) with hostMem := [(0, 0xA5)] }
      = some [(0, 0xA5), (7168, 0x14), (7170, 0x14), (7173, 0x14), (7175, 0x14)] := by decide

/-! ## Construction (V11; rules R270 to R272) -/

theorem test_construct_upright :
    after (.construct ⟨8, "upright", "0x5", 3⟩) State.reset = some (Device.fresh Params.default 3 0x05 3) := by decide
theorem test_construct_first_check :
    answer (.construct ⟨4, "sideways", "purple", 0⟩) State.reset = some (.configError .bpp) ∧
    after (.construct ⟨8, "upright", "0x100", 2⟩) State.reset = none := by decide
/-- The examples of rule R272 and V11. -/
theorem test_parse_colour :
    parseColour [] 0x77 "green" = some 0x14 ∧ parseColour [] 0x77 "0x3C" = some 0x3C ∧ parseColour [] 0x77 "0xFF" = some 0xFF ∧
    parseColour [] 0x77 "purple" = none ∧ parseColour [] 0x77 "0x100" = none ∧ parseColour [] 0x77 "random" = some 0x77 := by decide
/-- The codes of rules R231 and R271. -/
theorem test_error_codes :
    [ConfigError.colour, .bpp, .orient, .pool].map ConfigError.code = [1, 2, 3, 4] ∧
    [Violation.rd, .wr, .mode].map Violation.code = [1, 2, 3] := by decide

/-! ## The step: the word placed by withFetchWord is the next one run -/

theorem test_step_runs_placed_word :
    step (State.reset.withFetchWord 16 0x103) = exec (.out3 0) State.reset ∧
    step (State.reset.withFetchWord 8 0x71) = exec (.blitRgb332 ⟨0, 0⟩ (.frame 0) 0) State.reset ∧
    step (State.reset.withFetchWord 8 0xF0) = exec .snapshot (inside dev0) := ⟨rfl, rfl, rfl⟩
/-- Presented by an agent, the word 0xF0 changes nothing. -/
theorem test_step_snapshot_outside :
    step { State.reset with schedule := [.operate (encode .snapshot)] } = .next (State.reset.afterRefusal .insidePollOnly) := rfl
/-- A replaced map can name a further line on a bit the default map fixes (rule R5). -/
theorem test_in0_spare_line :
    answer .in0 { press .spare0 with
      params := { Params.default with inputMap := { InputMap.default with
        port0 := { InputMap.default.port0 with b7 := .line .spare0 } } } } = some (.value 0x8E) := by decide

/-! ## Witnesses: for every statement with hypotheses a concrete state and operands that meet them -/

theorem witness_DecodeEncodeRoundTrip :
    (Instr.inUnmapped 4).wellFormed = true ∧ (Instr.outUnmapped 255 1).wellFormed = true ∧ (Instr.poll 0).wellFormed = true := by decide
theorem witness_DecodedIsWellFormed : decode ⟨.pt, [4, 0], Operands.zero⟩ = .ok (.inUnmapped 4) := rfl
theorem witness_UnlistedCommandsAreRefused :
    (0x74#8) ∉ [0x00#8, 0x10#8, 0x20#8, 0x30#8, 0x40#8, 0x50#8, 0x60#8, 0x70#8, 0x71#8, 0x72#8, 0x73#8, 0xF0#8] ∧
    (0x73#8) ∈ [0x00#8, 0x10#8, 0x20#8, 0x30#8, 0x40#8, 0x50#8, 0x60#8, 0x70#8, 0x71#8, 0x72#8, 0x73#8, 0xF0#8] ∧
    ∃ (s : State) (rest : List Event), s.schedule = .operate ⟨.hc, [0x74], Operands.zero⟩ :: rest :=
  ⟨by decide, by decide, State.reset.present ⟨.hc, [0x74], Operands.zero⟩, [], rfl⟩
theorem witness_StepRunsDecodedOperation :
    (State.reset.withFetchWord 16 0x006).schedule = [.operate ⟨.pt, [6, 0], Operands.zero⟩] ∧
    decode ⟨.pt, [6, 0], Operands.zero⟩ = .ok .in6 := ⟨rfl, rfl⟩
theorem witness_EnvironmentEventsDo :
    ({ State.reset with schedule := [.line .credit true] } : State).schedule = .line .credit true :: [] ∧
    ({ State.reset with schedule := [.inPlay false] } : State).schedule = .inPlay false :: [] ∧
    ({ State.reset with schedule := [.cpuWrite 0xFFFF 1] } : State).schedule = .cpuWrite 0xFFFF 1 :: [] ∧
    ({ State.reset with schedule := [.hostWrite 0 1] } : State).schedule = .hostWrite 0 1 :: [] ∧
    State.reset.schedule = [] := ⟨rfl, rfl, rfl, rfl, rfl⟩
theorem witness_NoDeviceNoStep : ({ State.reset with dev := none } : State).dev = none ∧ Instr.isConstruct .dequeue = false := ⟨rfl, rfl⟩

theorem witness_In0ReadsPortZero : State.reset.dev = some dev0 ∧ State.reset.params.inputMap = InputMap.default := ⟨rfl, rfl⟩
theorem witness_In1ReadsPortOne :
    (withParams edgeParams).dev = some dev0 ∧ (withParams edgeParams).params.inputMap = InputMap.default := ⟨rfl, rfl⟩
theorem witness_In2ReadsPortTwo : State.reset.dev = some dev0 ∧ State.reset.params.inputMap = InputMap.default := ⟨rfl, rfl⟩
theorem witness_LevelSamplingAnyMap : State.reset.dev = some dev0 ∧ State.reset.params.edgeLines = LineBits.none := ⟨rfl, rfl⟩
theorem witness_In0HardWiredBitsAnyMap : State.reset.dev = some dev0 := rfl
theorem witness_In3ReadsShiftWindow :
    (on { dev0 with shift := 0xCDAB, shamt := 7 }).dev = some { dev0 with shift := 0xCDAB, shamt := 7 } := rfl
theorem witness_In3NeverShowsBitZero :
    (on { dev0 with shift := 0x8001 }).dev = some { dev0 with shift := 0x8001 } ∧
    ∀ j, 1 ≤ j → j < 16 → (0x8000#16).getLsbD j = (0x8001#16).getLsbD j := ⟨rfl, by decide⟩
theorem witness_WatchdogAndUnmappedReads : State.reset.dev = some dev0 := rfl
theorem witness_PortReadsFrame : State.reset.dev = some dev0 ∧ Instr.isRead (.inUnmapped 5) = true := ⟨rfl, rfl⟩

theorem witness_Out2SetsShiftAmount : State.reset.dev = some dev0 := rfl
theorem witness_Out4ShiftsByteIn : State.reset.dev = some dev0 := rfl
theorem witness_SlidingWindow : State.reset.dev = some dev0 := rfl
theorem witness_EdgeTestFormsAgree : 7 < 8 := by decide
theorem witness_Out3TriggersBankA : State.reset.dev = some dev0 := rfl
theorem witness_Out5TriggersBankB : State.reset.dev = some dev0 := rfl
theorem witness_SoundTriggersByConsecutiveWrites :
    State.reset.dev ≠ none ∧ (∀ c, Instr.construct c ∉ [Instr.in3, .poll 1, .snapshot]) ∧
    (∀ b, Instr.out3 b ∉ [Instr.in3, .poll 1, .snapshot]) ∧ ∀ b, Instr.out5 b ∉ [Instr.in3, .poll 1, .snapshot] :=
  ⟨fun h => Option.some_ne_none _ h, fun c h => by simp at h, fun b h => by simp at h, fun b h => by simp at h⟩
theorem witness_WatchdogAndUnmappedWrites : State.reset.dev = some dev0 := rfl
theorem witness_PortWritesFrame : State.reset.dev = some dev0 ∧ Instr.isWrite (.outUnmapped 0 1) = true := ⟨rfl, rfl⟩
theorem witness_SampleIndexSpansSixteenSlots : 7 < 8 := by decide

/-- One device for each row of rule R170. -/
theorem witness_PollFollowsTable :
    (on { dev0 with quit := true }).dev = some { dev0 with quit := true } ∧
    (dev0.quit = false ∧ dev0.lastT ≠ some 0 ∧ dev0.next ≠ State.reset.params.frameIrq) ∧
    ({ dev0 with next := .two }.quit = false ∧ { dev0 with next := .two }.lastT ≠ some 0 ∧
      { dev0 with next := .two }.next = State.reset.params.frameIrq) ∧
    ({ dev0 with lastT := some 5, lsreq := .load }.lastT = some 5 ∧ { dev0 with lastT := some 5, lsreq := .load }.lsreq = .load) ∧
    ({ dev0 with lastT := some 5, lsreq := .save }.lastT = some 5 ∧ { dev0 with lastT := some 5, lsreq := .save }.lsreq = .save) ∧
    ({ dev0 with lastT := some 5 }.lastT = some 5 ∧ { dev0 with lastT := some 5 }.lsreq = .none) := by decide
theorem witness_RasterInterruptsAlternate :
    State.reset.dev = some dev0 ∧ (∀ c, Instr.construct c ∉ [Instr.poll 1, .setquit, .poll 2]) ∧ dev0.quit = false ∧
    List.IsChain (· ≠ ·) ([1, 2, 1] : List Time) ∧ (∀ t0 ∈ ([1, 2, 1] : List Time).head?, dev0.lastT ≠ some t0) :=
  ⟨rfl, fun c h => by simp at h, rfl, by simp, by decide⟩
theorem witness_QuitIsTerminal :
    (on { dev0 with quit := true }).dev = some { dev0 with quit := true } ∧ (∀ c, Instr.construct c ∉ [Instr.poll 7, .out2 1]) ∧
    (∃ t, step ((on { dev0 with quit := true }).withFetchWord 8 0x10) = .next t ∧ t.result.endsRun = true) ∧
    (∃ r, runList [.poll 7, .out2 1] (on { dev0 with quit := true }) = some r ∧ r.ended = true) ∧
    ∃ r, runList [.out2 1] State.reset = some r ∧ r.ended = false :=
  ⟨rfl, fun c h => by simp at h, ⟨_, rfl, rfl⟩, ⟨_, rfl, rfl⟩, ⟨_, rfl, rfl⟩⟩
theorem witness_RequestReturnedOnce :
    (on { dev0 with lsreq := .load, lastT := some 5 }).dev = some { dev0 with lsreq := .load, lastT := some 5 } ∧
    (∀ c, Instr.construct c ∉ [Instr.in3]) ∧ Instr.reqload ∉ [Instr.in3] ∧ Instr.reqsave ∉ [Instr.in3] ∧
    ∃ u rs, execList [.in3] (on { dev0 with lsreq := .load, lastT := some 5 }) = some (u, rs) ∧ Result.isr .load ∉ rs ∧
      u.dev = some { dev0 with lsreq := .load, lastT := some 5 } :=
  ⟨rfl, fun c h => by simp at h, by decide, by decide, _, _, rfl, by decide, rfl⟩
/-- The save request, with no operation in between. -/
theorem witness_RequestReturnedOnce_save :
    ∃ u rs, execList [] (on { dev0 with lsreq := .save, lastT := some 5 }) = some (u, rs) ∧ Result.isr .save ∉ rs :=
  ⟨_, _, rfl, by decide⟩
theorem witness_HostSignalsSetFlags : State.reset.dev = some dev0 := rfl

theorem witness_SnapshotFillsLowestFree :
    State.reset.dev = some dev0 ∧ State.reset.inPoll = false ∧
    (inside { dev0 with buffers := [⟨.held, []⟩, ⟨.free, []⟩] }).dev = some { dev0 with buffers := [⟨.held, []⟩, ⟨.free, []⟩] } ∧
    (inside { dev0 with buffers := [⟨.held, []⟩, ⟨.free, []⟩] }).inPoll = true ∧
    { dev0 with buffers := [⟨.held, []⟩, ⟨.free, []⟩] }.owns 1 .free = true ∧
    ∀ j, j < 1 → { dev0 with buffers := [⟨.held, []⟩, ⟨.free, []⟩] }.owns j .free = false :=
  ⟨rfl, rfl, rfl, rfl, by decide, by decide⟩
/-- The one buffer held, and ISR_TWO next. -/
theorem witness_SnapshotDropsWithoutWaiting :
    (inside { heldDev 1 with next := .two }).inPoll = true ∧ (on { heldDev 1 with next := .two }).inPoll = false ∧
    (∀ k, { heldDev 1 with next := .two }.owns k .free = false) ∧ { heldDev 1 with next := .two }.quit = false ∧
    { heldDev 1 with next := .two }.lastT ≠ some 0 ∧ { heldDev 1 with next := .two }.next = State.reset.params.frameIrq := by
  refine ⟨rfl, rfl, fun k => ?_, by decide, by decide, by decide⟩
  cases k <;> rfl
theorem witness_DequeueTakesHead :
    dev0.queue = [] ∧ { dev0 with buffers := [⟨.queued, []⟩], queue := [0] }.queue = 0 :: [] ∧
    0 < { dev0 with buffers := [⟨.queued, []⟩], queue := [0] }.poolN := by decide
theorem witness_ReturnFreesHeldBuffer : (heldDev 1).owns 0 .held = true ∧ (heldDev 1).owns 1 .held = false := by decide

/-- A pool with a buffer of each owner. -/
def mixedDev : Device := { dev0 with buffers := [⟨.free, []⟩, ⟨.queued, [(0, 0x81)]⟩, ⟨.held, [(7167, 1)]⟩], queue := [1] }

theorem mixedDev_inv : mixedDev.Inv where
  pool_pos := by decide
  pool_le := by decide
  queue_nodup := by decide
  queue_queued := by
    intro k
    match k with
    | 0 => decide
    | 1 => decide
    | 2 => decide
    | n + 3 => simp [mixedDev, Device.owns]
  frames_wf := by decide
  frames_small := by decide

theorem witness_PoolConservation : (on mixedDev).dev = some mixedDev ∧ mixedDev.Inv ∧ Instr.isConstruct (.poll 1) = false :=
  ⟨rfl, mixedDev_inv, rfl⟩
theorem witness_QueueIsFifo : (on mixedDev).dev = some mixedDev ∧ Instr.isConstruct .dequeue = false := ⟨rfl, rfl⟩
theorem witness_FrameBytesStable :
    (on mixedDev).dev = some mixedDev ∧ Instr.isConstruct .snapshot = false ∧
    mixedDev.buffers[1]? = some ⟨.queued, [(0, 0x81)]⟩ ∧ Owner.queued ≠ Owner.free := ⟨rfl, rfl, rfl, by decide⟩

/-- A held frame, no overlap, and exactly the room the mode needs. -/
theorem witness_BlitNativeCopies :
    (heldDev 0).mode = 0 ∧ (on (heldDev 0)).sourceBytes (heldDev 0) (.frame 0) = some [(33, 0x80)] ∧
    dstOverlaps ⟨0, 7168⟩ (.frame 0) = false := ⟨rfl, rfl, rfl⟩
theorem witness_BlitRgb332Rotates :
    (heldDev 1).mode = 1 ∧ (on (heldDev 1)).sourceBytes (heldDev 1) (.frame 0) = some [(33, 0x80)] ∧
    dstOverlaps ⟨0, 57344⟩ (.frame 0) = false ∧ 224 ≤ 224 ∧ 255 * 224 + 224 ≤ 57344 := ⟨rfl, rfl, rfl, by decide, by decide⟩
theorem witness_BlitUprightTransposes :
    (heldDev 2).mode = 2 ∧ (on (heldDev 2)).sourceBytes (heldDev 2) (.frame 0) = some [(33, 0x80)] ∧
    dstOverlaps ⟨0, 7168⟩ (.frame 0) = false ∧ 28 ≤ 28 ∧ 255 * 28 + 28 ≤ 7168 := ⟨rfl, rfl, rfl, by decide, by decide⟩
/-- Both layouts, the source HOST's memory just below the destination. -/
theorem witness_BlitUpright8bppExpands :
    (heldDev 3).mode = 3 ∧ (on (heldDev 3)).sourceBytes (heldDev 3) (.host 0) = some [] ∧
    dstOverlaps ⟨7168, 57344⟩ (.host 0) = false ∧ State.reset.params.upright8 = .linear ∧
    ({ Params.default with upright8 := .asRgb332 } : Params).upright8 = .asRgb332 ∧ 255 * 224 + 224 ≤ 57344 :=
  ⟨rfl, rfl, rfl, rfl, rfl, by decide⟩
theorem witness_BlitSourceBytes :
    (heldDev 0).buffers[0]? = some ⟨.held, [(33, 0x80)]⟩ ∧ (heldDev 0).owns 1 .held = false := ⟨rfl, rfl⟩
/-- A buffer not held; an overlap by one byte; one byte too few, or a pitch one too small; a mode that is not the word's. -/
theorem witness_BlitRefusals :
    dev0.owns 0 .held = false ∧
    (State.reset.sourceBytes dev0 (.host 0) ≠ none ∧ dstOverlaps ⟨7167, 57344⟩ (.host 0) = true) ∧
    (dstOverlaps ⟨7168, 7167⟩ (.host 0) = false ∧ 7167 < 7168) ∧ (223 < 224 ∧ 57343 < 255 * 224 + 224) ∧
    (27 < 28 ∧ 7167 < 255 * 28 + 28) ∧ (57343 < 57344) ∧
    ((heldDev 0).mode = 0 ∧ (heldDev 1).mode = 1 ∧ (heldDev 2).mode = 2 ∧ (heldDev 3).mode = 3) ∧
    ((heldDev 1).mode ≠ 0 ∧ (heldDev 0).mode ≠ 1 ∧ (heldDev 0).mode ≠ 2 ∧ (heldDev 0).mode ≠ 3) := by decide
theorem rgb332_completes {dst : DstBuf} (h : fitsRows dst 224 224 = true) :
    ∃ t, exec (.blitRgb332 dst (.frame 0) 224) (on (heldDev 1)) = .next t ∧ t.result = .done := by
  unfold exec execBlitRgb332
  exact ⟨_, State.blit_runs (d := heldDev 1) (bytes := [(33, 0x80)]) rfl rfl rfl rfl h _, rfl⟩
/-- Two completed BLITs of one frame into two destinations. -/
theorem witness_BlitIsPure :
    (∃ t, exec (.blitRgb332 ⟨0, 57344⟩ (.frame 0) 224) (on (heldDev 1)) = .next t ∧ t.result = .done) ∧
    (∃ t, exec (.blitRgb332 ⟨60000, 57344⟩ (.frame 0) 224) (on (heldDev 1)) = .next t ∧ t.result = .done) :=
  ⟨rgb332_completes (by decide), rgb332_completes (by decide)⟩
theorem witness_UprightSinglePixel :
    (heldDev 2).mode = 2 ∧ (on (heldDev 2)).sourceBytes (heldDev 2) (.frame 0) = some [(33, 0x80)] ∧
    ∀ L p, L < 224 → p < 256 → (px [(33, 0x80)] L p = true ↔ L = 1 ∧ p = 15) := by
  refine ⟨rfl, rfl, fun L p _ _ => ?_⟩
  have hbit : ∀ q, q < 8 → ((0x80#8).getLsbD q = true ↔ q = 7) := by decide
  have hq : p % 8 < 8 := Nat.mod_lt _ (by decide)
  unfold px srcLineBytes
  by_cases h : 33 = 32 * L + p / 8
  · have hr : Memory.read [(33, 0x80)] (32 * L + p / 8) = 0x80#8 := by simp [Memory.read, ← h]
    rw [hr, hbit _ hq]
    omega
  · have hr : Memory.read [(33, 0x80)] (32 * L + p / 8) = 0x00#8 := by simp [Memory.read, unlistedByte, h]
    rw [hr]
    simp
    omega
theorem witness_UprightPacksRgb332 :
    (on (heldDev 2)).sourceBytes (heldDev 2) (.frame 0) = some [(33, 0x80)] ∧
    (on { heldDev 1 with colour := 1 }).sourceBytes { heldDev 1 with colour := 1 } (.frame 0) = some [(33, 0x80)] ∧
    (heldDev 2).mode = 2 ∧ { heldDev 1 with colour := 1 }.mode = 1 ∧ { heldDev 1 with colour := 1 }.colour = 1 ∧
    dstOverlaps ⟨0, 7168⟩ (.frame 0) = false ∧ dstOverlaps ⟨0, 57344⟩ (.frame 0) = false := ⟨rfl, rfl, rfl, rfl, rfl, rfl, rfl⟩

theorem witness_ConstructSucceeds :
    parseColour State.reset.params.colourNames (Config.drawnColour State.reset.draws) "0x3C" = some 0x3C ∧
    parseColour State.reset.params.colourNames (Config.drawnColour State.reset.draws) "random"
      = some (Config.drawnColour State.reset.draws) ∧
    ((1 : Nat) = 1 ∨ (1 : Nat) = 8) ∧ ("upright" = "cocktail" ∨ "upright" = "upright") ∧ ((3 : Nat) = 1 ∨ (3 : Nat) = 2 ∨ (3 : Nat) = 3) :=
  ⟨rfl, rfl, by decide, by decide, by decide⟩
/-- One configuration for each clause. -/
theorem witness_ConstructFailsByFirstCheck :
    ¬ ((4 : Nat) = 1 ∨ (4 : Nat) = 8) ∧ ¬ ("sideways" = "cocktail" ∨ "sideways" = "upright") ∧
    parseColour State.reset.params.colourNames (Config.drawnColour State.reset.draws) "purple" = none ∧
    parseColour State.reset.params.colourNames (Config.drawnColour State.reset.draws) "green" ≠ none ∧
    ¬ ((4 : Nat) = 1 ∨ (4 : Nat) = 2 ∨ (4 : Nat) = 3) ∧ ¬ ((0 : Nat) = 1 ∨ (0 : Nat) = 2 ∨ (0 : Nat) = 3) :=
  ⟨by decide, by decide, rfl, (by decide : (some (0x14#8) : Option Byte) ≠ none), by decide, by decide⟩
theorem witness_ParseColourFollowsRule :
    colourName [] "0x5" = none ∧ colourName [] "0x3C" = none ∧ hexDigit '5' = some 5 ∧ hexDigit '3' = some 3 ∧
    hexDigit 'C' = some 12 ∧ "0x5".toList = ['0', 'x', '5'] ∧ "0x3C".toList = ['0', 'x', '3', 'C'] ∧
    colourName [] "random" = none ∧ colourName [] "0x100" = none ∧ "0x100" ≠ "random" ∧ "0x100".toList.length = 5 := by decide

/-- A state that is not reset, its pool holding a buffer of each owner. -/
theorem witness_EveryStepKeepsInv :
    (on mixedDev).Inv ∧ ∃ t, step (on mixedDev) = .next t :=
  ⟨{ dev_inv := fun d h => by cases h; exact mixedDev_inv
     mem_wf := Memory.wf_nil
     mem_small := fun c h => absurd h List.not_mem_nil
     host_wf := Memory.wf_nil
     not_in_poll := rfl }, _, rfl⟩
theorem witness_InvCountsThePool : mixedDev.Inv := mixedDev_inv
theorem witness_StickyFlags : State.reset.dev = some dev0 ∧ Instr.isConstruct (.inUnmapped 4) = false := ⟨rfl, rfl⟩
theorem witness_AgentRights : State.reset.dev = some dev0 ∧ Instr.agent .setquit = .host ∧ Instr.agent .snapshot = .emu := ⟨rfl, rfl, rfl⟩
theorem witness_PseudoOperationsDo :
    State.reset.dev = some dev0 ∧ dev0.quit = false ∧ dev0.next = .one ∧ (0 : Time) ≠ 1 ∧ dev0.lastT ≠ some 0 ∧
    dev0.lastT ≠ some 1 ∧ 7 < 8 ∧ dev0.prevA = 0 ∧ dev0.prevB = 0 := by decide

end Sys2Proof.Tests
end

/-! PROOFS. What a step does with the first event of the schedule, and what every operation leaves unchanged
(spec/00_scope.md rules R7 to R9). -/

namespace Sys2Proof.Machine

/-! ## One step -/

/-- A presentation first on the schedule runs as `exec` of the operation it decodes to. -/
theorem step_operate {s : State} {p : Presented} {rest : List Event} {i : Instr} (hs : s.schedule = .operate p :: rest)
    (hp : decode p = .ok i) : step s = exec i (s.advance rest) := by
  simp [step, hs, hp]

/-- Any other event first on the schedule is applied as `State.environment` says. -/
theorem step_environment {s : State} {e : Event} {rest : List Event} (hs : s.schedule = e :: rest)
    (he : ∀ p, e ≠ .operate p) : step s = .next ((s.advance rest).environment e) := by
  cases e with
  | operate p => exact absurd rfl (he p)
  | line _ _ | inPlay _ | cpuWrite _ _ | hostWrite _ _ => simp [step, hs]

theorem step_idle {s : State} (hs : s.schedule = []) : step s = .next s.idle := by
  simp [step, hs]

/-! ## What an operation of a device leaves unchanged -/

/-- The configuration of a device (rule R31): `MODE`, `COLOUR` and `POOL_N`. -/
def Device.config (d : Device) : BitVec 2 × Byte × Nat := (d.mode, d.colour, d.poolN)

/-- Equal configurations, register by register, of two devices or of none. -/
theorem Device.map_config_eq_cases {x y : Option Device} (h : x.map Device.config = y.map Device.config) :
    (x = none ∧ y = none) ∨
      ∃ d d', y = some d ∧ x = some d' ∧ d'.mode = d.mode ∧ d'.colour = d.colour ∧ d'.poolN = d.poolN := by
  cases x with
  | none => exact .inl ⟨rfl, Option.map_eq_none_iff.1 h.symm⟩
  | some d' =>
    obtain ⟨d, rfl, hd⟩ := Option.map_eq_some_iff.1 h.symm
    simp only [Device.config, Prod.mk.injEq] at hd
    obtain ⟨hmode, hcolour, hpool⟩ := hd
    exact .inr ⟨d, d', rfl, rfl, hmode.symm, hcolour.symm, hpool.symm⟩

/-- The answer `a` is a next state that differs from `s` in the device, the mark of a POLL under way and the answer alone; the
device keeps its configuration, and no POLL is under way that was not (log 13). -/
def State.WritesDeviceOnly (s : State) (a : Answer) : Prop :=
  ∃ dev inPoll r, a = .next { s with dev := dev, inPoll := inPoll, result := r } ∧
    (inPoll = true → s.inPoll = true) ∧ dev.map Device.config = s.dev.map Device.config

theorem State.refuse_writesDeviceOnly (s : State) (r : NoStep) : s.WritesDeviceOnly (s.refuse r) :=
  ⟨s.dev, s.inPoll, .noStep r, rfl, id, rfl⟩

theorem State.finish_writesDeviceOnly {s : State} {d d' : Device} (hd : s.dev = some d) (hc : d'.config = d.config)
    (r : Result) : s.WritesDeviceOnly (s.finish d' r) :=
  ⟨some d', s.inPoll, r, rfl, id, by simp [hd, hc]⟩

/-- An operation of a device need be looked at only where there is one. -/
theorem State.onDevice_writesDeviceOnly {s : State} {f : Device → Answer}
    (hf : ∀ d, s.dev = some d → s.WritesDeviceOnly (f d)) : s.WritesDeviceOnly (s.onDevice f) := by
  cases hd : s.dev with
  | none => rw [State.onDevice_none hd]; exact s.refuse_writesDeviceOnly .noDevice
  | some d => rw [State.onDevice_some hd]; exact hf d hd

/-- The shape of most operations: one update of the device that keeps its configuration. -/
theorem State.update_writesDeviceOnly (s : State) {g : Device → Device} (hg : ∀ d, (g d).config = d.config)
    (r : Device → Result) : s.WritesDeviceOnly (s.onDevice fun d => s.finish (g d) (r d)) :=
  State.onDevice_writesDeviceOnly fun d hd => State.finish_writesDeviceOnly hd (hg d) (r d)

@[simp] theorem Device.config_snapshot (d : Device) (mem : Memory) : (d.snapshot mem).config = d.config := by
  simp [Device.config]

@[simp] theorem Device.config_turn (d : Device) (t : Time) : (d.turn t).config = d.config := rfl

@[simp] theorem Device.config_setOwner (d : Device) (k : Nat) (o : Owner) : (d.setOwner k o).config = d.config := by
  simp [Device.config]

theorem State.readInput_writesDeviceOnly (s : State) (pm : PortMap) : s.WritesDeviceOnly (s.readInput pm) :=
  s.update_writesDeviceOnly (fun _ => by rfl) _

theorem State.produce_writesDeviceOnly (s : State) : s.WritesDeviceOnly s.produce := by
  refine State.onDevice_writesDeviceOnly fun d hd => ?_
  split
  · exact ⟨some (d.snapshot s.mem), false, .done, rfl, nofun, by simp [hd]⟩
  · exact s.refuse_writesDeviceOnly .insidePollOnly

/-- A firing poll flips `NEXT`, records its time and may take a snapshot. -/
theorem State.fire_writesDeviceOnly {s : State} {d : Device} (hd : s.dev = some d) (t : Time) :
    s.WritesDeviceOnly (s.fire d t) := by
  by_cases hn : d.next = s.params.frameIrq
  · exact ⟨_, _, _, State.fire_frame hn t, nofun, by simp [hd]⟩
  · exact ⟨_, _, _, State.fire_other hn t, id, by simp [hd]⟩

theorem execPoll_writesDeviceOnly (t : Time) (s : State) : s.WritesDeviceOnly (execPoll t s) := by
  refine State.onDevice_writesDeviceOnly fun d hd => ?_
  split
  · exact State.finish_writesDeviceOnly hd rfl _
  · split
    · exact State.fire_writesDeviceOnly hd t
    · split <;> exact State.finish_writesDeviceOnly hd (by rfl) _

theorem execDequeue_writesDeviceOnly (s : State) : s.WritesDeviceOnly (execDequeue s) := by
  refine State.onDevice_writesDeviceOnly fun d hd => ?_
  split
  · exact s.refuse_writesDeviceOnly .queueEmpty
  · next k _ _ => exact State.finish_writesDeviceOnly hd (by exact d.config_setOwner k .held) _

theorem execGiveBack_writesDeviceOnly (k : Nat) (s : State) : s.WritesDeviceOnly (execGiveBack k s) := by
  refine State.onDevice_writesDeviceOnly fun d hd => ?_
  split
  · exact State.finish_writesDeviceOnly hd (d.config_setOwner k .free) _
  · exact s.refuse_writesDeviceOnly .notHeld

/-! ## Every operation -/

/-- Every operation but BLIT and CONSTRUCT writes the device alone and keeps its configuration. -/
theorem exec_writesDeviceOnly {i : Instr} (hb : i.isBlit = false) (hc : i.isConstruct = false) (s : State) :
    s.WritesDeviceOnly (exec i s) := by
  cases i with
  | in0 | in1 | in2 => exact s.readInput_writesDeviceOnly _
  | in3 | in6 | inUnmapped _ | out2 _ | out3 _ | out4 _ | out5 _ | out6 _ | outUnmapped _ _ | setquit | reqload | reqsave =>
    exact s.update_writesDeviceOnly (fun _ => by rfl) _
  | poll t => exact execPoll_writesDeviceOnly t s
  | dequeue => exact execDequeue_writesDeviceOnly s
  | giveBack k => exact execGiveBack_writesDeviceOnly k s
  | snapshot => exact s.produce_writesDeviceOnly
  | construct _ => cases hc
  | blitNative _ _ _ | blitRgb332 _ _ _ | blitUpright _ _ _ | blitUpright8bpp _ _ _ => cases hb

/-- BLIT writes HOST's memory alone (rules R79, R200). -/
theorem exec_blit_next {i : Instr} (hb : i.isBlit = true) (s : State) :
    ∃ m r, exec i s = .next { s with hostMem := m, result := r } := by
  cases i with
  | blitNative _ _ _ | blitRgb332 _ _ _ | blitUpright _ _ _ => exact s.blit_next _ _ _ _ _
  | blitUpright8bpp dst src stride =>
    unfold exec execBlitUpright8bpp
    cases s.params.upright8 <;> exact s.blit_next _ _ _ _ _
  | _ => cases hb

/-- CONSTRUCT writes the device and the model's counter of free values alone (rules R270, R271; log 10, log 15). -/
theorem execConstruct_next (cfg : Cfg) (s : State) :
    ∃ dev r, execConstruct cfg s = .next { s with dev := dev, draws := s.draws + 1, result := r } := by
  unfold execConstruct
  cases construct s.params (Config.drawnColour s.draws) cfg with
  | ok d => exact ⟨some d, .device, rfl⟩
  | error e => exact ⟨none, .configError e, rfl⟩

/-! ## The statements -/

/-- Settles O6: a step on a presentation is `exec` on the advanced schedule. -/
theorem stepRunsDecodedOperation : Obligations.StepRunsDecodedOperation :=
  fun _ _ _ _ hs hp => step_operate hs hp

/-- Settles O7: each event writes its one place, read back by the laws of `LineBits.set` and `Memory.write`. -/
theorem environmentEventsDo : Obligations.EnvironmentEventsDo := by
  refine fun s rest => ⟨fun id level hs => ?line, fun b hs => ?inPlay, fun a v hs => ?cpuWrite, fun a v hs => ?hostWrite,
    step_idle⟩
  case line => exact ⟨_, step_environment hs nofun, rfl, fun j =>
    (LineBits.get_set s.lines id j level).trans (if_congr eq_comm rfl rfl)⟩
  case inPlay => exact step_environment hs nofun
  case cpuWrite => exact ⟨_, step_environment hs nofun, rfl, fun b =>
    (Memory.read_write s.mem a.toNat b v).trans (if_congr eq_comm rfl rfl)⟩
  case hostWrite => exact ⟨_, step_environment hs nofun, rfl, fun b =>
    (Memory.read_write s.hostMem a b v).trans (if_congr eq_comm rfl rfl)⟩

/-- Settles O59, by the three kinds of operation: CONSTRUCT, BLIT, and those that write the device alone. -/
theorem surroundingsUntouched : Obligations.SurroundingsUntouched := by
  intro i s
  cases hb : i.isBlit with
  | true =>
    obtain ⟨m, r, h⟩ := exec_blit_next hb s
    exact ⟨_, h, rfl, rfl, rfl, rfl, rfl, id, .inl rfl, .inr (Device.map_config_eq_cases rfl)⟩
  | false =>
    cases hc : i.isConstruct with
    | true =>
      cases i with
      | construct cfg =>
        obtain ⟨dev, r, h⟩ := execConstruct_next cfg s
        exact ⟨_, h, rfl, rfl, rfl, rfl, rfl, id, .inr rfl, .inl rfl⟩
      | _ => cases hc
    | false =>
      obtain ⟨dev, inPoll, r, h, hp, hcfg⟩ := exec_writesDeviceOnly hb hc s
      exact ⟨_, h, rfl, rfl, rfl, rfl, rfl, hp, .inr rfl, .inr (Device.map_config_eq_cases hcfg)⟩

/-- Settles O8: the next state whose surroundings O59 speaks of. -/
theorem everyOperationAnswers : Obligations.EveryOperationAnswers := fun i s =>
  (surroundingsUntouched i s).imp fun _ h => h.1

end Sys2Proof.Machine

/-! PROOFS. What every operation of a device does to its registers and its frame pool, the pool invariant, and CONSTRUCT
(spec/10_state.md rules R38 to R41). -/

namespace Sys2Proof.Machine

/-! ## What an operation of a device does to the device -/

/-- `d.Effect s i r d'`: the operation `i`, no CONSTRUCT, performed in `s` on the device `d`, answers `r` and leaves the device
`d'`. A constructor for each operation; for one with several outcomes, one for each, with its condition. -/
inductive Device.Effect (s : State) (d : Device) : Instr → Result → Device → Prop where
  | in0 : Effect s d .in0 (.value (s.samplePort (hardwiredPort0 s.params.inputMap.port0) d.edgePrev).1)
      { d with edgePrev := (s.samplePort (hardwiredPort0 s.params.inputMap.port0) d.edgePrev).2 }
  | in1 : Effect s d .in1 (.value (s.samplePort s.params.inputMap.port1 d.edgePrev).1)
      { d with edgePrev := (s.samplePort s.params.inputMap.port1 d.edgePrev).2 }
  | in2 : Effect s d .in2 (.value (s.samplePort s.params.inputMap.port2 d.edgePrev).1)
      { d with edgePrev := (s.samplePort s.params.inputMap.port2 d.edgePrev).2 }
  | in3 : Effect s d .in3 (.value (shiftWindow d.shift d.shamt)) d
  | in6 : Effect s d .in6 (.value 0x00) d
  | inUnmapped (p : Byte) : Effect s d (.inUnmapped p) (.value 0x00) { d with violRd := true }
  | out2 (b : Byte) : Effect s d (.out2 b) (.mask 0x00) { d with shamt := shiftAmount b }
  | out3 (b : Byte) : Effect s d (.out3 b) (.mask (triggerA b d.prevA)) { d with prevA := b }
  | out4 (b : Byte) : Effect s d (.out4 b) (.mask 0x00) { d with shift := shiftIn d.shift b }
  | out5 (b : Byte) : Effect s d (.out5 b) (.mask (triggerB b d.prevB)) { d with prevB := b }
  | out6 (b : Byte) : Effect s d (.out6 b) (.mask 0x00) d
  | outUnmapped (p b : Byte) : Effect s d (.outUnmapped p b) (.mask 0x00) { d with violWr := true }
  | pollQuit (t : Time) (hq : d.quit = true) : Effect s d (.poll t) (.isr .quit) d
  | pollFrame (t : Time) (hq : d.quit = false) (hf : d.fires t = true) (hn : d.next = s.params.frameIrq) :
      Effect s d (.poll t) (.isr (rasterIsr d.next)) ((d.turn t).snapshot s.mem)
  | pollOther (t : Time) (hq : d.quit = false) (hf : d.fires t = true) (hn : d.next ≠ s.params.frameIrq) :
      Effect s d (.poll t) (.isr (rasterIsr d.next)) (d.turn t)
  | pollLoad (t : Time) (hq : d.quit = false) (hf : d.fires t = false) (hl : d.lsreq = .load) :
      Effect s d (.poll t) (.isr .load) { d with lsreq := .none }
  | pollSave (t : Time) (hq : d.quit = false) (hf : d.fires t = false) (hl : d.lsreq = .save) :
      Effect s d (.poll t) (.isr .save) { d with lsreq := .none }
  | pollNone (t : Time) (hq : d.quit = false) (hf : d.fires t = false) (hl : d.lsreq = .none) :
      Effect s d (.poll t) (.isr .none) d
  | setquit : Effect s d .setquit .done { d with quit := true }
  | reqload : Effect s d .reqload .done { d with lsreq := .load }
  | reqsave : Effect s d .reqsave .done { d with lsreq := .save }
  | dequeueEmpty (hq : d.queue = []) : Effect s d .dequeue (.noStep .queueEmpty) d
  | dequeueHead (k : Nat) (rest : List Nat) (hq : d.queue = k :: rest) :
      Effect s d .dequeue (.buffer k) { d.setOwner k .held with queue := rest }
  | giveBackHeld (k : Nat) (hk : d.owns k .held = true) : Effect s d (.giveBack k) .done (d.setOwner k .free)
  | giveBackOther (k : Nat) (hk : d.owns k .held = false) : Effect s d (.giveBack k) (.noStep .notHeld) d
  | snapshotInside (hp : s.inPoll = true) : Effect s d .snapshot .done (d.snapshot s.mem)
  | snapshotOutside (hp : s.inPoll = false) : Effect s d .snapshot (.noStep .insidePollOnly) d
  | blit (i : Instr) (r : Result) (hb : i.isBlit = true) : Effect s d i r d

/-- The answer `a` is a next state with a device, which is what the operation `i` leaves of `d`. -/
def State.HasEffect (s : State) (d : Device) (i : Instr) (a : Answer) : Prop :=
  ∃ t d', a = .next t ∧ t.dev = some d' ∧ d.Effect s i t.result d'

section
variable {s : State} {d : Device}

theorem State.finish_hasEffect {i : Instr} {r : Result} {d' : Device} (h : d.Effect s i r d') :
    s.HasEffect d i (s.finish d' r) :=
  ⟨_, d', s.finish_eq d' r, rfl, h⟩

/-- The shape of most operations: one update of the device. -/
theorem State.update_hasEffect (hd : s.dev = some d) {i : Instr} {g : Device → Device} {r : Device → Result}
    (h : d.Effect s i (r d) (g d)) : s.HasEffect d i (s.onDevice fun v => s.finish (g v) (r v)) := by
  rw [State.onDevice_some hd]
  exact State.finish_hasEffect h

/-- A refusal leaves the device. -/
theorem State.refuse_hasEffect {i : Instr} {x : NoStep} (hd : s.dev = some d) (h : d.Effect s i (.noStep x) d) :
    s.HasEffect d i (s.refuse x) :=
  ⟨_, d, s.refuse_eq x, hd, h⟩

theorem execPoll_hasEffect (hd : s.dev = some d) (t : Time) : s.HasEffect d (.poll t) (execPoll t s) := by
  unfold execPoll
  rw [State.onDevice_some hd]
  split
  · next hq => exact State.finish_hasEffect (.pollQuit t hq)
  · next hq =>
    replace hq := Bool.eq_false_of_not_eq_true hq
    split
    · next hf =>
      by_cases hn : d.next = s.params.frameIrq
      · exact ⟨_, _, State.fire_frame hn t, rfl, .pollFrame t hq hf hn⟩
      · exact ⟨_, _, State.fire_other hn t, rfl, .pollOther t hq hf hn⟩
    · next hf =>
      replace hf := Bool.eq_false_of_not_eq_true hf
      split
      · next hl => exact State.finish_hasEffect (.pollLoad t hq hf hl)
      · next hl => exact State.finish_hasEffect (.pollSave t hq hf hl)
      · next hl => exact State.finish_hasEffect (.pollNone t hq hf hl)

theorem execDequeue_hasEffect (hd : s.dev = some d) : s.HasEffect d .dequeue (execDequeue s) := by
  unfold execDequeue
  rw [State.onDevice_some hd]
  split
  · next hq => exact State.refuse_hasEffect hd (.dequeueEmpty hq)
  · next k rest hq => exact State.finish_hasEffect (.dequeueHead k rest hq)

theorem execGiveBack_hasEffect (hd : s.dev = some d) (k : Nat) : s.HasEffect d (.giveBack k) (execGiveBack k s) := by
  unfold execGiveBack
  rw [State.onDevice_some hd]
  split
  · next hk => exact State.finish_hasEffect (.giveBackHeld k hk)
  · next hk => exact State.refuse_hasEffect hd (.giveBackOther k (Bool.eq_false_of_not_eq_true hk))

theorem execSnapshot_hasEffect (hd : s.dev = some d) : s.HasEffect d .snapshot (execSnapshot s) := by
  cases hp : s.inPoll with
  | true => exact ⟨_, _, State.produce_inside hd hp, rfl, .snapshotInside hp⟩
  | false => exact ⟨_, d, State.produce_outside hd hp, hd, .snapshotOutside hp⟩

theorem exec_blit_hasEffect (hd : s.dev = some d) {i : Instr} (hb : i.isBlit = true) : s.HasEffect d i (exec i s) := by
  obtain ⟨m, r, h⟩ := exec_blit_next hb s
  exact ⟨_, d, h, hd, .blit i r hb⟩

/-- Every operation but CONSTRUCT has one of the effects. -/
theorem exec_hasEffect (hd : s.dev = some d) {i : Instr} (hc : i.isConstruct = false) : s.HasEffect d i (exec i s) := by
  cases i with
  | in0 => exact State.update_hasEffect hd .in0
  | in1 => exact State.update_hasEffect hd .in1
  | in2 => exact State.update_hasEffect hd .in2
  | in3 => exact State.update_hasEffect hd .in3
  | in6 => exact State.update_hasEffect hd .in6
  | inUnmapped p => exact State.update_hasEffect hd (.inUnmapped p)
  | out2 b => exact State.update_hasEffect hd (.out2 b)
  | out3 b => exact State.update_hasEffect hd (.out3 b)
  | out4 b => exact State.update_hasEffect hd (.out4 b)
  | out5 b => exact State.update_hasEffect hd (.out5 b)
  | out6 b => exact State.update_hasEffect hd (.out6 b)
  | outUnmapped p b => exact State.update_hasEffect hd (.outUnmapped p b)
  | construct _ => cases hc
  | poll t => exact execPoll_hasEffect hd t
  | setquit => exact State.update_hasEffect hd .setquit
  | reqload => exact State.update_hasEffect hd .reqload
  | reqsave => exact State.update_hasEffect hd .reqsave
  | dequeue => exact execDequeue_hasEffect hd
  | giveBack k => exact execGiveBack_hasEffect hd k
  | blitNative _ _ _ | blitRgb332 _ _ _ | blitUpright _ _ _ | blitUpright8bpp _ _ _ =>
    exact exec_blit_hasEffect hd rfl
  | snapshot => exact execSnapshot_hasEffect hd

end

/-! ## The pool -/

/-- A snapshot leaves `QUEUE` or appends a buffer that was free. -/
theorem Device.queue_snapshot_cases (d : Device) (mem : Memory) :
    (d.snapshot mem).queue = d.queue ∨ ∃ k, d.owns k .free = true ∧ (d.snapshot mem).queue = d.queue ++ [k] := by
  obtain ⟨k, hk, -, h⟩ | ⟨-, h⟩ := d.snapshot_cases mem
  · exact .inr ⟨k, hk, by rw [h]⟩
  · exact .inl (by rw [h])

/-- What an operation does to `QUEUE` (rules R33, R187). -/
theorem Device.Effect.queue_cases {s : State} {d d' : Device} {i : Instr} {r : Result} (h : d.Effect s i r d') :
    d'.queue = d.queue ∨
    (((∃ x, i = .poll x) ∨ (i = .snapshot ∧ s.inPoll = true)) ∧
      ∃ k, d.owns k .free = true ∧ d'.queue = d.queue ++ [k]) ∨
    (i = .dequeue ∧ ∃ k, d.queue = k :: d'.queue ∧ r = .buffer k) := by
  cases h with
  | pollFrame t =>
    exact (Device.queue_snapshot_cases (d.turn t) s.mem).imp id fun h => .inl ⟨.inl ⟨t, rfl⟩, h⟩
  | snapshotInside hp => exact (d.queue_snapshot_cases s.mem).imp id fun h => .inl ⟨.inr ⟨rfl, hp⟩, h⟩
  | dequeueHead k rest hq => exact .inr (.inr ⟨rfl, k, hq, rfl⟩)
  | _ => exact .inl rfl

/-- Settles O39, by what an operation does to `QUEUE`. -/
theorem queueIsFifo : Obligations.QueueIsFifo := by
  intro i s d hd hc
  obtain ⟨t, d', h, ht, he⟩ := exec_hasEffect hd hc
  exact ⟨t, d', h, ht, he.queue_cases⟩

/-! ## Flags and rights -/

/-- What an operation does to `QUIT` and the violation flags (rules R27, R30). -/
theorem Device.Effect.flags {s : State} {d d' : Device} {i : Instr} {r : Result} (h : d.Effect s i r d') :
    (d'.quit = true ↔ d.quit = true ∨ i = .setquit) ∧
    (d'.violRd = true ↔ d.violRd = true ∨ ∃ p, i = .inUnmapped p) ∧
    (d'.violWr = true ↔ d.violWr = true ∨ ∃ p b, i = .outUnmapped p b) ∧
    d'.violMode = d.violMode := by
  cases h with
  | blit _ _ hb =>
    cases i with
    | blitNative _ _ _ | blitRgb332 _ _ _ | blitUpright _ _ _ | blitUpright8bpp _ _ _ => simp
    | _ => cases hb
  | _ => simp

/-- What HOST's operations leave (rule R38): all of the device but `QUIT`, `LSREQ`, `VIOL_MODE`, the owners and `QUEUE`. -/
theorem Device.Effect.host_leaves {s : State} {d d' : Device} {i : Instr} {r : Result} (h : d.Effect s i r d')
    (ha : i.agent = .host) :
    d' = { d with quit := d'.quit, lsreq := d'.lsreq, violMode := d'.violMode, buffers := d'.buffers, queue := d'.queue } ∧
    d'.poolN = d.poolN ∧ ∀ k : Nat, (d'.buffers[k]?).map FrameBuffer.bytes = (d.buffers[k]?).map FrameBuffer.bytes := by
  cases h with
  | dequeueHead k => exact ⟨rfl, d.poolN_setOwner k .held, fun j => d.bytes_setOwner k j .held⟩
  | giveBackHeld k => exact ⟨rfl, d.poolN_setOwner k .free, fun j => d.bytes_setOwner k j .free⟩
  | setquit | reqload | reqsave | dequeueEmpty | giveBackOther | blit => exact ⟨rfl, rfl, fun _ => rfl⟩
  | _ => cases ha

theorem Instr.agent_of_isBlit {i : Instr} (h : i.isBlit = true) : i.agent = .host := by
  cases i with
  | blitNative _ _ _ | blitRgb332 _ _ _ | blitUpright _ _ _ | blitUpright8bpp _ _ _ => rfl
  | _ => cases h

/-- What EMU's operations leave (rule R38): `QUIT`, `VIOL_MODE` and the configuration; `LSREQ` they can only drain. -/
theorem Device.Effect.emu_leaves {s : State} {d d' : Device} {i : Instr} {r : Result} (h : d.Effect s i r d')
    (ha : i.agent = .emu) :
    d'.quit = d.quit ∧ d'.violMode = d.violMode ∧ d'.mode = d.mode ∧ d'.colour = d.colour ∧ d'.poolN = d.poolN ∧
    (d'.lsreq = d.lsreq ∨ d'.lsreq = .none) := by
  cases h with
  | setquit | reqload | reqsave | dequeueEmpty | dequeueHead | giveBackHeld | giveBackOther => cases ha
  | blit _ _ hb => rw [Instr.agent_of_isBlit hb] at ha; cases ha
  | pollFrame t => exact ⟨by simp, by simp, by simp, by simp, Device.poolN_snapshot _ _, .inl (by simp)⟩
  | snapshotInside => exact ⟨by simp, by simp, by simp, by simp, d.poolN_snapshot s.mem, .inl (by simp)⟩
  | pollLoad | pollSave => exact ⟨rfl, rfl, rfl, rfl, rfl, .inr rfl⟩
  | _ => exact ⟨rfl, rfl, rfl, rfl, rfl, .inl rfl⟩

/-- HOST's memory is left by every operation but BLIT. -/
theorem exec_hostMem {i : Instr} {s t : State} (hb : i.isBlit = false) (h : exec i s = .next t) :
    t.hostMem = s.hostMem := by
  obtain ⟨u, hu, -, -, -, -, -, -, hm, -⟩ := surroundingsUntouched i s
  cases hu.symm.trans h
  exact hm.resolve_left (by simp [hb])

/-- Settles O57, by what an operation does to the flags. -/
theorem stickyFlags : Obligations.StickyFlags := by
  intro i s d hd hc
  obtain ⟨t, d', h, ht, he⟩ := exec_hasEffect hd hc
  exact ⟨t, d', h, ht, he.flags⟩

theorem Instr.isConstruct_of_agent {i : Instr} (h : i.agent ≠ .builder) : i.isConstruct = false := by
  cases i with
  | construct _ => exact absurd rfl h
  | _ => rfl

/-- Settles O58, agent by agent. -/
theorem agentRights : Obligations.AgentRights := by
  refine fun i s d hd => ⟨fun ha => ?_, fun ha => ?_⟩
  · obtain ⟨t, d', h, ht, he⟩ := exec_hasEffect hd (Instr.isConstruct_of_agent (i := i) (by simp [ha]))
    exact ⟨t, d', h, ht, he.host_leaves ha⟩
  · obtain ⟨t, d', h, ht, he⟩ := exec_hasEffect hd (Instr.isConstruct_of_agent (i := i) (by simp [ha]))
    have hb : i.isBlit = false := Bool.eq_false_of_not_eq_true fun hb => by simp [Instr.agent_of_isBlit hb] at ha
    exact ⟨t, d', h, ht, exec_hostMem hb h, he.emu_leaves ha⟩

/-! ## The pool invariant -/

/-- The pool invariant looks at the buffers and the queue alone. -/
theorem Device.Inv.of_same_pool {d d' : Device} (h : d.Inv) (hb : d'.buffers = d.buffers) (hq : d'.queue = d.queue) :
    d'.Inv := by
  obtain ⟨hpos, hle, hnodup, hqueued, hwf, hsmall⟩ := h
  refine ⟨?_, ?_, hq ▸ hnodup, fun k => ?_, hb ▸ hwf, hb ▸ hsmall⟩
  · rwa [Device.poolN, hb]
  · rwa [Device.poolN, hb]
  · rw [hq, Device.owns_congr hb]
    exact hqueued k

theorem Device.Inv.snapshot {d : Device} (h : d.Inv) {mem : Memory} (hm : Memory.wf mem) : (d.snapshot mem).Inv := by
  obtain ⟨k, hk, -, he⟩ | ⟨-, he⟩ := d.snapshot_cases mem
  · have hpool := d.poolN_snapshot mem
    rw [he] at hpool ⊢
    have hkq : k ∉ d.queue := fun hmem =>
      absurd (Device.owns_unique hk ((h.queue_queued k).1 hmem)) (by decide)
    have hmem : ∀ b ∈ d.buffers.set k ⟨.queued, frameOf mem⟩, b ∈ d.buffers ∨ b.bytes = frameOf mem := fun b hb =>
      (List.mem_or_eq_of_mem_set hb).imp id fun e => by rw [e]
    exact {
      pool_pos := hpool ▸ h.pool_pos
      pool_le := hpool ▸ h.pool_le
      queue_nodup := List.nodup_append'.2 ⟨h.queue_nodup, List.nodup_singleton k, by simpa using hkq⟩
      queue_queued := fun j => by
        rw [Device.owns_filled d (Device.owns_lt hk), List.mem_append, List.mem_singleton, h.queue_queued]
        by_cases hj : k = j
        · simp [hj]
        · simp [hj, Ne.symm hj]
      frames_wf := fun b hb => (hmem b hb).elim (h.frames_wf b) fun e => e ▸ Memory.wf_slice hm _ _
      frames_small := fun b hb => (hmem b hb).elim (h.frames_small b) fun e => e ▸ Memory.slice_small mem _ _ }
  · rw [he]
    exact h.of_same_pool rfl rfl

/-- A change of owner leaves every frame's bytes. -/
theorem Device.frame_of_mem_setOwner {d : Device} {k : Nat} {o : Owner} {b : FrameBuffer}
    (hb : b ∈ (d.setOwner k o).buffers) : ∃ b' ∈ d.buffers, b'.bytes = b.bytes := by
  obtain ⟨j, hj⟩ := List.mem_iff_getElem?.1 hb
  have hbytes := d.bytes_setOwner k j o
  rw [hj] at hbytes
  obtain ⟨b', hb', he⟩ := Option.map_eq_some_iff.1 hbytes.symm
  exact ⟨b', List.mem_of_getElem? hb', he⟩

/-- A change of owner keeps the pool invariant with a queue that lists what is then queued. -/
theorem Device.Inv.setOwner {d : Device} (h : d.Inv) (k : Nat) (o : Owner) {q : List Nat} (hn : q.Nodup)
    (hq : ∀ j, j ∈ q ↔ (d.setOwner k o).owns j .queued = true) : Device.Inv { d.setOwner k o with queue := q } where
  pool_pos := (d.poolN_setOwner k o).symm ▸ h.pool_pos
  pool_le := (d.poolN_setOwner k o).symm ▸ h.pool_le
  queue_nodup := hn
  queue_queued := hq
  frames_wf := fun _ hb => by
    obtain ⟨b', hb', he⟩ := Device.frame_of_mem_setOwner hb
    exact he ▸ h.frames_wf b' hb'
  frames_small := fun _ hb => by
    obtain ⟨b', hb', he⟩ := Device.frame_of_mem_setOwner hb
    exact he ▸ h.frames_small b' hb'

theorem Device.Inv.dequeue {d : Device} (h : d.Inv) {k : Nat} {rest : List Nat} (hq : d.queue = k :: rest) :
    Device.Inv { d.setOwner k .held with queue := rest } := by
  obtain ⟨hk, hrest⟩ := List.nodup_cons.1 (hq ▸ h.queue_nodup)
  refine h.setOwner k .held hrest fun j => ?_
  have hj := h.queue_queued j
  rw [hq, List.mem_cons] at hj
  rw [Device.owns_setOwner]
  by_cases e : k = j
  · subst e; simp [hk]
  · simpa [e, Ne.symm e] using hj

theorem Device.Inv.giveBack {d : Device} (h : d.Inv) {k : Nat} (hk : d.owns k .held = true) :
    (d.setOwner k .free).Inv := by
  refine h.setOwner k .free h.queue_nodup fun j => ?_
  rw [Device.owns_setOwner, h.queue_queued]
  by_cases e : k = j
  · subst e
    have hne : d.owns k .queued ≠ true := fun hq => absurd (Device.owns_unique hk hq) (by decide)
    simp [hne]
  · simp [e]

/-- Every operation but CONSTRUCT keeps the pool invariant. -/
theorem Device.Effect.keeps_inv {s : State} {d d' : Device} {i : Instr} {r : Result} (h : d.Effect s i r d')
    (hi : d.Inv) (hm : Memory.wf s.mem) : d'.Inv := by
  cases h with
  | pollFrame t => exact Device.Inv.snapshot (hi.of_same_pool (d.turn_buffers t) (d.turn_queue t)) hm
  | snapshotInside => exact hi.snapshot hm
  | dequeueHead k rest hq => exact hi.dequeue hq
  | giveBackHeld k hk => exact hi.giveBack hk
  | _ => exact hi.of_same_pool rfl rfl

/-! ## Counting the pool -/

/-- The buffers of owner `o`, counted by their indices. -/
theorem Device.count_eq_countP_owns (d : Device) (o : Owner) :
    d.count o = (List.range d.poolN).countP fun k => d.owns k o := by
  have hbufs : d.buffers.map some = (List.range d.poolN).map fun k => d.buffers[k]? := by
    refine List.ext_getElem (by simp [Device.poolN]) fun k hk _ => ?_
    have hk : k < d.buffers.length := by simpa using hk
    simp [hk]
  calc d.count o
      = (d.buffers.map some).countP fun b => b.any fun b => b.owner == o := by
        rw [List.countP_map]; rfl
    _ = (List.range d.poolN).countP fun k => (d.buffers[k]?).any fun b => b.owner == o := by
        rw [hbufs, List.countP_map]; rfl
    _ = (List.range d.poolN).countP fun k => d.owns k o := by
        congr 1
        funext k
        unfold Device.owns
        cases d.buffers[k]? <;> rfl

/-- Each buffer has exactly one of the three owners. -/
theorem Device.count_sum (d : Device) : d.count .free + d.count .queued + d.count .held = d.poolN := by
  unfold Device.count Device.poolN
  induction d.buffers with
  | nil => rfl
  | cons b bs ih =>
    simp only [List.countP_cons, List.length_cons]
    cases b.owner <;> simp <;> omega

/-- The queue lists the queued buffers, each once. -/
theorem Device.Inv.queue_length {d : Device} (h : d.Inv) : d.queue.length = d.count .queued := by
  have hperm : d.queue.Perm ((List.range d.poolN).filter fun k => d.owns k .queued) :=
    (List.perm_ext_iff_of_nodup h.queue_nodup (List.nodup_range.filter _)).2 fun k => by
      rw [h.queue_queued, List.mem_filter, List.mem_range]
      exact ⟨fun hk => ⟨Device.owns_lt hk, hk⟩, And.right⟩
  rw [hperm.length_eq, Device.count_eq_countP_owns, List.countP_eq_length_filter]

/-- Settles O56: the queue has as many entries as there are queued buffers, and each buffer is counted once. -/
theorem invCountsThePool : Obligations.InvCountsThePool := fun d h => by
  have hsum := d.count_sum
  have hlen := h.queue_length
  exact ⟨hlen, by omega, hsum⟩

/-! ## CONSTRUCT -/

@[simp] theorem Device.poolN_fresh (p : Params) (mode : BitVec 2) (colour : Byte) (n : Nat) :
    (Device.fresh p mode colour n).poolN = n := List.length_replicate

@[simp] theorem Device.queue_fresh (p : Params) (mode : BitVec 2) (colour : Byte) (n : Nat) :
    (Device.fresh p mode colour n).queue = [] := rfl

@[simp] theorem Device.owns_fresh (p : Params) (mode : BitVec 2) (colour : Byte) (n k : Nat) (o : Owner) :
    (Device.fresh p mode colour n).owns k o = (decide (k < n) && Owner.free == o) := by
  unfold Device.owns Device.fresh
  by_cases hk : k < n <;> simp [hk]

theorem Device.fresh_inv (p : Params) (mode : BitVec 2) (colour : Byte) {n : Nat} (hpos : 1 ≤ n) (hle : n ≤ 3) :
    (Device.fresh p mode colour n).Inv := by
  have hempty : ∀ b ∈ (Device.fresh p mode colour n).buffers, b.bytes = [] := fun b hb => by
    rw [List.eq_of_mem_replicate hb]
  exact {
    pool_pos := by simpa using hpos
    pool_le := by simpa using hle
    queue_nodup := List.nodup_nil
    queue_queued := fun k => by simp
    frames_wf := fun b hb => hempty b hb ▸ Memory.wf_nil
    frames_small := fun b hb => by simp [hempty b hb] }

/-- CONSTRUCT gives a device exactly where the four checks of rule R270 pass, the reset device of the configuration. -/
theorem construct_eq_ok {p : Params} {drawn : Byte} {cfg : Cfg} {d : Device} :
    construct p drawn cfg = .ok d ↔
      (cfg.bpp = 1 ∨ cfg.bpp = 8) ∧ (cfg.orient = "cocktail" ∨ cfg.orient = "upright") ∧
      (cfg.pool = 1 ∨ cfg.pool = 2 ∨ cfg.pool = 3) ∧
      ∃ c, parseColour p.colourNames drawn cfg.colour = some c ∧ d = Device.fresh p (modeOf cfg) c cfg.pool := by
  unfold construct
  split
  · next hb => simp [hb]
  · next hb =>
    rw [not_and_or, not_not, not_not] at hb
    split
    · next ho => simp [ho]
    · next ho =>
      rw [not_and_or, not_not, not_not] at ho
      split
      · next hc => simp [hc]
      · next c hc =>
        split
        · next hp => simp [hp]
        · next hp =>
          constructor
          · intro h
            cases h
            exact ⟨hb, ho, by omega, c, hc, rfl⟩
          · rintro ⟨-, -, -, c', hc', rfl⟩
            cases hc.symm.trans hc'
            rfl

/-- A CONSTRUCT whose four checks pass. -/
theorem execConstruct_of_ok {cfg : Cfg} {s : State} {d : Device}
    (h : construct s.params (Config.drawnColour s.draws) cfg = .ok d) :
    execConstruct cfg s = .next { s with dev := some d, draws := s.draws + 1, result := .device } := by
  simp [execConstruct, h]

/-- A device that CONSTRUCT leaves comes from the four checks. -/
theorem construct_of_execConstruct {cfg : Cfg} {s t : State} {d : Device} (h : execConstruct cfg s = .next t)
    (hd : t.dev = some d) : construct s.params (Config.drawnColour s.draws) cfg = .ok d := by
  unfold execConstruct at h
  split at h
  · next hc => cases h; cases hd; exact hc
  · next hc => cases h; cases hd

/-- Rule R104: bit 1 of `MODE` is the orientation, bit 0 the depth. -/
theorem modeOf_toNat (cfg : Cfg) :
    (modeOf cfg).toNat = (if cfg.orient = "upright" then 2 else 0) + (if cfg.bpp = 8 then 1 else 0) := by
  unfold modeOf
  by_cases ho : cfg.orient = "upright" <;> by_cases hb : cfg.bpp = 8 <;> simp [beq_eq_decide, ho, hb]

/-- Settles O50: the device is the reset device of the configuration, whose registers are read off. -/
theorem constructSucceeds : Obligations.ConstructSucceeds := by
  intro s cfg c hb ho hc hp
  have h := construct_eq_ok.2 ⟨hb, ho, hp, c, hc, rfl⟩
  exact ⟨_, execConstruct_of_ok h, modeOf_toNat cfg, rfl, Device.poolN_fresh _ _ _ _, fun k hk => by simp [hk], rfl, rfl, rfl,
    rfl, rfl, rfl, rfl, rfl, rfl, rfl, rfl, rfl, rfl, LineBits.get_none⟩

/-- Settles O53: the reset device is the one the four checks of the example configuration give. -/
theorem resetIsConstructed : Obligations.ResetIsConstructed := by
  have h : construct Params.default (Config.drawnColour 0) ⟨8, "cocktail", "green", 2⟩
      = .ok (Device.fresh Params.default 1 0x14 2) :=
    construct_eq_ok.2 ⟨.inr rfl, .inl rfl, .inr (.inl rfl), 0x14, rfl, rfl⟩
  exact ⟨execConstruct_of_ok (s := State.reset) h, _, rfl, rfl, rfl, rfl, rfl, rfl, rfl, rfl, rfl, rfl, rfl, rfl, rfl, rfl, rfl,
    Device.poolN_fresh _ _ _ _, Device.owns_fresh _ _ _ _ _ _, rfl, rfl, rfl⟩

/-! ## The state invariant -/

/-- Everything a step can do: an operation, an event of the environment, or nothing. -/
theorem step_cases {s t : State} (h : step s = .next t) :
    (∃ p rest i, s.schedule = .operate p :: rest ∧ decode p = .ok i ∧ exec i (s.advance rest) = .next t) ∨
    (∃ e rest, s.schedule = e :: rest ∧ (∀ p, e ≠ .operate p) ∧ t = (s.advance rest).environment e) ∨
    (s.schedule = [] ∧ t = s.idle) := by
  unfold step at h
  split at h
  · next hs => cases h; exact .inr (.inr ⟨hs, rfl⟩)
  · next p rest hs =>
    split at h
    · next i hp => exact .inl ⟨p, rest, i, hs, hp, h⟩
    · cases h
    · cases h
  all_goals
    next hs => cases h; exact .inr (.inl ⟨_, _, hs, nofun, rfl⟩)

/-- Settles O54: a fresh pool of two, and empty memories. -/
theorem resetMeetsInv : Obligations.ResetMeetsInv where
  dev_inv := fun _ h => by cases h; exact Device.fresh_inv _ _ _ (by decide) (by decide)
  mem_wf := Memory.wf_nil
  mem_small := nofun
  host_wf := Memory.wf_nil
  not_in_poll := rfl

/-- Every operation leaves a device with the pool invariant. -/
theorem exec_keeps_devInv {i : Instr} {s t : State} (hs : s.Inv) (h : exec i s = .next t) {d' : Device}
    (hd' : t.dev = some d') : d'.Inv := by
  cases hc : i.isConstruct with
  | true =>
    cases i with
    | construct cfg =>
      obtain ⟨-, -, hp, c, -, rfl⟩ := construct_eq_ok.1 (construct_of_execConstruct h hd')
      exact Device.fresh_inv _ _ _ (by omega) (by omega)
    | _ => cases hc
  | false =>
    obtain ⟨u, hu, -, -, -, -, -, -, -, hdev⟩ := surroundingsUntouched i s
    cases hu.symm.trans h
    obtain hc' | ⟨hn, -⟩ | ⟨d, -, hd, -⟩ := hdev
    · simp [hc] at hc'
    · simp [hn] at hd'
    · obtain ⟨u, e, hu, he, heff⟩ := exec_hasEffect hd hc
      cases hu.symm.trans h
      cases he.symm.trans hd'
      exact heff.keeps_inv (hs.dev_inv d hd) hs.mem_wf

/-- A painted destination is canonical, so BLIT keeps HOST's memory canonical. -/
theorem State.blit_host_wf {s t : State} {sub : BitVec 2} {dst : DstBuf} {src : Source} {fits : Bool}
    {paint : Device → Memory → Memory} (hp : ∀ d bytes, Memory.wf (paint d bytes)) (hw : Memory.wf s.hostMem)
    (h : s.blit sub dst src fits paint = .next t) : Memory.wf t.hostMem := by
  obtain ⟨_, rfl⟩ | ⟨d, bytes, -, -, -, -, -, rfl⟩ := State.blit_cases h
  · exact hw
  · exact hp d bytes

/-- Every operation keeps HOST's memory canonical. -/
theorem exec_host_wf {i : Instr} {s t : State} (hw : Memory.wf s.hostMem) (h : exec i s = .next t) :
    Memory.wf t.hostMem := by
  cases i with
  | blitNative dst src stride => exact State.blit_host_wf (fun _ _ => wf_paintNative hw _ _) hw h
  | blitRgb332 dst src stride => exact State.blit_host_wf (fun _ _ => wf_paintRgb332 hw _ _ _ _) hw h
  | blitUpright dst src stride => exact State.blit_host_wf (fun _ _ => wf_paintUpright hw _ _ _) hw h
  | blitUpright8bpp dst src stride =>
    simp only [exec, execBlitUpright8bpp] at h
    split at h
    · exact State.blit_host_wf (fun _ _ => wf_paintLinear hw _ _ _) hw h
    · exact State.blit_host_wf (fun _ _ => wf_paintRgb332 hw _ _ _ _) hw h
  | _ => exact (exec_hostMem rfl h).symm ▸ hw

/-- Every operation keeps the state invariant. -/
theorem exec_keeps_inv {i : Instr} {s t : State} (hs : s.Inv) (h : exec i s = .next t) : t.Inv := by
  obtain ⟨u, hu, hmem, -, -, -, -, hp, -⟩ := surroundingsUntouched i s
  cases hu.symm.trans h
  exact {
    dev_inv := fun _ => exec_keeps_devInv hs h
    mem_wf := hmem.symm ▸ hs.mem_wf
    mem_small := hmem.symm ▸ hs.mem_small
    host_wf := exec_host_wf hs.host_wf h
    not_in_poll := Bool.eq_false_of_not_eq_true fun ht => Bool.false_ne_true (hs.not_in_poll.symm.trans (hp ht)) }

theorem State.Inv.advance {s : State} (h : s.Inv) (rest : List Event) : (s.advance rest).Inv := { h with }

theorem State.Inv.idle {s : State} (h : s.Inv) : s.idle.Inv := { h with }

/-- The environment writes one byte of a memory, or neither memory. -/
theorem State.Inv.environment {s : State} (h : s.Inv) (e : Event) : (s.environment e).Inv := by
  cases e with
  | operate _ => exact h
  | line _ _ => exact { h with }
  | inPlay _ => exact { h with }
  | cpuWrite a v =>
    exact { h with
      mem_wf := Memory.wf_write h.mem_wf _ _
      mem_small := Memory.write_small h.mem_small a.isLt v }
  | hostWrite a v => exact { h with host_wf := Memory.wf_write h.host_wf a v }

/-- Settles O55, event by event. -/
theorem everyStepKeepsInv : Obligations.EveryStepKeepsInv := by
  intro s t hs h
  obtain ⟨-, rest, i, -, -, hi⟩ | ⟨e, rest, -, -, rfl⟩ | ⟨-, rfl⟩ := step_cases h
  · exact exec_keeps_inv (hs.advance rest) hi
  · exact (hs.advance rest).environment e
  · exact hs.idle

end Sys2Proof.Machine

/-! PROOFS. What the operations do at the memories of spec/20_memory.md: the hard-wired bits of input port 0 (rule R69), the
frames as point-in-time copies (rule R77), and the BLITs that have no step (rule R79). -/

namespace Sys2Proof.Machine

/-! ## The hard-wired bits of port 0 -/

/-- Bits 3:1 set are the mask `0x0E`, whatever the other bits. -/
theorem byteOfBits_and_0x0E (b0 b4 b5 b6 b7 : Bool) :
    byteOfBits b0 true true true b4 b5 b6 b7 &&& 0x0E#8 = 0x0E#8 := by
  revert b0 b4 b5 b6 b7
  decide

/-- Sampling through a map hard-wired as port 0 reports bits 3:1 set: a fixed level does not pass through `Sample`. -/
theorem State.samplePort_hardwiredPort0 (s : State) (pm : PortMap) (prev : LineBits) :
    (s.samplePort (hardwiredPort0 pm) prev).1 &&& 0x0E#8 = 0x0E#8 :=
  byteOfBits_and_0x0E _ _ _ _ _

/-- Settles O14: each of the three is `readInput`, and port 0's map is hard-wired. -/
theorem in0HardWiredBitsAnyMap : Obligations.In0HardWiredBitsAnyMap := fun s d hd =>
  ⟨⟨_, _, State.readInput_eq hd (hardwiredPort0 s.params.inputMap.port0), s.samplePort_hardwiredPort0 _ d.edgePrev⟩,
    ⟨_, _, State.readInput_eq hd s.params.inputMap.port1⟩, ⟨_, _, State.readInput_eq hd s.params.inputMap.port2⟩⟩

/-! ## Frames are point-in-time copies -/

/-- A snapshot fills a free buffer, so it leaves the bytes of every other. -/
theorem Device.bytes_snapshot {d : Device} {k : Nat} (hk : d.owns k .free = false) (mem : Memory) :
    ((d.snapshot mem).buffers[k]?).map FrameBuffer.bytes = (d.buffers[k]?).map FrameBuffer.bytes := by
  obtain ⟨j, hj, -, h⟩ | ⟨-, h⟩ := d.snapshot_cases mem
  · have hne : j ≠ k := by
      rintro rfl
      exact Bool.false_ne_true (hk.symm.trans hj)
    rw [h, Device.getElem?_filled _ _ _ _ hne]
  · rw [h]

/-- No operation but CONSTRUCT changes the bytes of a buffer that is not free. -/
theorem Device.Effect.bytes_stable {s : State} {d d' : Device} {i : Instr} {r : Result} (h : d.Effect s i r d') {k : Nat}
    (hk : d.owns k .free = false) :
    (d'.buffers[k]?).map FrameBuffer.bytes = (d.buffers[k]?).map FrameBuffer.bytes := by
  cases h with
  | pollFrame t => exact Device.bytes_snapshot (d := d.turn t) hk s.mem
  | snapshotInside => exact Device.bytes_snapshot hk s.mem
  | dequeueHead j => exact d.bytes_setOwner j k .held
  | giveBackHeld j => exact d.bytes_setOwner j k .free
  | _ => rfl

/-- Settles O40, by what an operation does to a buffer that is not free. -/
theorem frameBytesStable : Obligations.FrameBytesStable := by
  intro i s d k b hd hc hb ho
  obtain ⟨t, d', h, ht, he⟩ := exec_hasEffect hd hc
  have hbytes := he.bytes_stable (k := k) (by simpa [Device.owns, hb] using ho)
  rw [hb] at hbytes
  obtain ⟨b', hb', hbb⟩ := Option.map_eq_some_iff.1 hbytes
  exact ⟨t, d', b', h, ht, hb', hbb⟩

/-! ## A destination too small for its mode -/

theorem fitsNative_eq_false {dst : DstBuf} : fitsNative dst = false ↔ dst.size < 7168 :=
  decide_eq_false_iff_not.trans Nat.not_le

theorem fitsRows_eq_false {dst : DstBuf} {row stride : Nat} :
    fitsRows dst row stride = false ↔ stride < row ∨ dst.size < 255 * stride + row := by
  rw [fitsRows, Bool.and_eq_false_iff, decide_eq_false_iff_not, decide_eq_false_iff_not, Nat.not_le, Nat.not_le]

theorem fitsLinear_eq_false {dst : DstBuf} : fitsLinear dst = false ↔ dst.size < 57344 :=
  decide_eq_false_iff_not.trans Nat.not_le

/-! ## The refusals of the shared operation, in the order it tests them (log 25) -/

section
variable {s : State} {d : Device} {sub : BitVec 2} {dst : DstBuf} {src : Source} {fits : Bool} {bytes : Memory}
  {paint : Device → Memory → Memory}

theorem State.blit_notHeld (hd : s.dev = some d) (hb : s.sourceBytes d src = none) :
    s.blit sub dst src fits paint = .next (s.afterRefusal .notHeld) := by
  unfold State.blit
  rw [State.onDevice_some hd, hb]
  rfl

theorem State.blit_subNotMode (hd : s.dev = some d) (hb : s.sourceBytes d src = some bytes) (hm : d.mode ≠ sub) :
    s.blit sub dst src fits paint = .next (s.afterRefusal .subNotMode) := by
  unfold State.blit
  rw [State.onDevice_some hd]
  simp [hb, hm, State.refuse_eq, State.afterRefusal]

theorem State.blit_overlap (hd : s.dev = some d) (hb : s.sourceBytes d src = some bytes) (hm : d.mode = sub)
    (ho : dstOverlaps dst src = true) : s.blit sub dst src fits paint = .next (s.afterRefusal .overlap) := by
  unfold State.blit
  rw [State.onDevice_some hd]
  simp [hb, hm, ho, State.refuse_eq, State.afterRefusal]

theorem State.blit_tooSmall (hd : s.dev = some d) (hb : s.sourceBytes d src = some bytes) (hm : d.mode = sub)
    (ho : dstOverlaps dst src = false) (hf : fits = false) :
    s.blit sub dst src fits paint = .next (s.afterRefusal .tooSmall) := by
  unfold State.blit
  rw [State.onDevice_some hd]
  simp [hb, hm, ho, hf, State.refuse_eq, State.afterRefusal]

end

/-! ## Upright8bpp in its two layouts (decision D21) -/

theorem exec_blitUpright8bpp_linear {s : State} (h : s.params.upright8 = .linear) (dst : DstBuf) (src : Source)
    (stride : Nat) : exec (.blitUpright8bpp dst src stride) s =
      s.blit 3 dst src (fitsLinear dst) fun d bytes => paintLinear s.hostMem dst bytes d.colour := by
  simp [exec, execBlitUpright8bpp, h]

theorem exec_blitUpright8bpp_asRgb332 {s : State} (h : s.params.upright8 = .asRgb332) (dst : DstBuf) (src : Source)
    (stride : Nat) : exec (.blitUpright8bpp dst src stride) s =
      s.blit 3 dst src (fitsRows dst srcLines stride) fun d bytes => paintRgb332 s.hostMem dst bytes stride d.colour := by
  simp [exec, execBlitUpright8bpp, h]

/-- In either layout it is the shared operation in mode 3, so what is tested before the size does not depend on the layout. -/
theorem exec_blitUpright8bpp_eq_blit (s : State) (dst : DstBuf) (src : Source) (stride : Nat) :
    ∃ fits paint, exec (.blitUpright8bpp dst src stride) s = s.blit 3 dst src fits paint := by
  cases h : s.params.upright8 with
  | linear => exact ⟨_, _, exec_blitUpright8bpp_linear h dst src stride⟩
  | asRgb332 => exact ⟨_, _, exec_blitUpright8bpp_asRgb332 h dst src stride⟩

/-- Settles O46, refusal by refusal: each mode is the shared operation, refused by the test its premise names. -/
theorem blitRefusals : Obligations.BlitRefusals := by
  intro s d dst src stride hd
  obtain ⟨fits, paint, hupright8⟩ := exec_blitUpright8bpp_eq_blit s dst src stride
  refine ⟨?notHeld, fun hsrc ho => ?overlap, fun hsrc ho => ?tooSmall, fun hsrc => ?subNotMode⟩
  case notHeld =>
    rintro k rfl hk
    have hb : s.sourceBytes d (.frame k) = none := State.sourceBytes_frame.2 hk
    simp only [List.forall_mem_cons, List.not_mem_nil, false_imp_iff, implies_true, and_true]
    exact ⟨State.blit_notHeld hd hb, State.blit_notHeld hd hb, State.blit_notHeld hd hb,
      hupright8.trans (State.blit_notHeld hd hb)⟩
  all_goals obtain ⟨bytes, hb⟩ := Option.ne_none_iff_exists'.1 hsrc
  case overlap =>
    exact ⟨fun hm => State.blit_overlap hd hb hm ho, fun hm => State.blit_overlap hd hb hm ho,
      fun hm => State.blit_overlap hd hb hm ho, fun hm => hupright8.trans (State.blit_overlap hd hb hm ho)⟩
  case tooSmall =>
    exact ⟨fun hm hf => State.blit_tooSmall hd hb hm ho (fitsNative_eq_false.2 hf),
      fun hm hf => State.blit_tooSmall hd hb hm ho (fitsRows_eq_false.2 hf),
      fun hm hf => State.blit_tooSmall hd hb hm ho (fitsRows_eq_false.2 hf),
      fun hm hl hf => (exec_blitUpright8bpp_linear hl dst src stride).trans
        (State.blit_tooSmall hd hb hm ho (fitsLinear_eq_false.2 hf)),
      fun hm hl hf => (exec_blitUpright8bpp_asRgb332 hl dst src stride).trans
        (State.blit_tooSmall hd hb hm ho (fitsRows_eq_false.2 hf))⟩
  case subNotMode =>
    exact ⟨State.blit_subNotMode hd hb, State.blit_subNotMode hd hb, State.blit_subNotMode hd hb,
      fun hm => hupright8.trans (State.blit_subNotMode hd hb hm)⟩

end Sys2Proof.Machine

/-! PROOFS. The encoding (spec/30_encoding.md): the decoder and the encoder (rules R91, R92, R106 to R108), what a port read, a
port write and the snapshot do to the operands of rules R93 to R102, and the pseudo-operations (rule R112). -/

namespace Sys2Proof

/-! ## Port-transaction selectors (rules R91, R108) -/

theorem mappedRead_eq_true {p : Byte} : mappedRead p = true ↔ p = 0 ∨ p = 1 ∨ p = 2 ∨ p = 3 ∨ p = 6 := by
  simp [mappedRead, or_assoc]

theorem mappedWrite_eq_true {p : Byte} : mappedWrite p = true ↔ p = 2 ∨ p = 3 ∨ p = 4 ∨ p = 5 ∨ p = 6 := by
  simp [mappedWrite, or_assoc]

theorem mappedRead_eq_false {p : Byte} : mappedRead p = false ↔ p ≠ 0 ∧ p ≠ 1 ∧ p ≠ 2 ∧ p ≠ 3 ∧ p ≠ 6 := by
  simp [mappedRead, and_assoc]

theorem mappedWrite_eq_false {p : Byte} : mappedWrite p = false ↔ p ≠ 2 ∧ p ≠ 3 ∧ p ≠ 4 ∧ p ≠ 5 ∧ p ≠ 6 := by
  simp [mappedWrite, and_assoc]

/-- The port of a selector `{dir, port}`. -/
theorem selector_port (dir : BitVec 1) (port : Byte) : BitVec.truncate 8 (dir ++ port : Selector) = port := by
  rw [BitVec.truncate_eq_setWidth, BitVec.setWidth_append, dif_pos (by decide), BitVec.setWidth_eq]

/-- The direction of a selector `{dir, port}`. -/
theorem selector_dir (dir : BitVec 1) (port : Byte) : (dir ++ port : Selector).getLsbD 8 = dir.getLsbD 0 :=
  BitVec.getLsbD_append

theorem decode_read_unmapped {port : Byte} (h : mappedRead port = false) (ops : Operands) :
    decode ⟨.pt, [port, 0], ops⟩ = .ok (.inUnmapped port) := by
  obtain ⟨h0, h1, h2, h3, h6⟩ := mappedRead_eq_false.1 h
  show Except.ok (decodePort _ ops) = _
  unfold decodePort
  rw [selector_port, selector_dir, if_neg (by simp), if_neg h0, if_neg h1, if_neg h2, if_neg h3, if_neg h6]

theorem decode_write_unmapped {port : Byte} (h : mappedWrite port = false) (ops : Operands) :
    decode ⟨.pt, [port, 1], ops⟩ = .ok (.outUnmapped port ops.data) := by
  obtain ⟨h2, h3, h4, h5, h6⟩ := mappedWrite_eq_false.1 h
  show Except.ok (decodePort _ ops) = _
  unfold decodePort
  rw [selector_port, selector_dir, if_pos (by simp), if_neg h2, if_neg h3, if_neg h4, if_neg h5, if_neg h6]

theorem decode_read_wellFormed {port : Byte} {ops : Operands} {i : Instr} (h : decode ⟨.pt, [port, 0], ops⟩ = .ok i) :
    i.wellFormed = true := by
  cases hm : mappedRead port with
  | true => obtain rfl | rfl | rfl | rfl | rfl := mappedRead_eq_true.1 hm <;> cases h <;> rfl
  | false =>
    cases (decode_read_unmapped hm ops).symm.trans h
    simp [Instr.wellFormed, hm]

theorem decode_write_wellFormed {port : Byte} {ops : Operands} {i : Instr} (h : decode ⟨.pt, [port, 1], ops⟩ = .ok i) :
    i.wellFormed = true := by
  cases hm : mappedWrite port with
  | true => obtain rfl | rfl | rfl | rfl | rfl := mappedWrite_eq_true.1 hm <;> cases h <;> rfl
  | false =>
    cases (decode_write_unmapped hm ops).symm.trans h
    simp [Instr.wellFormed, hm]

/-- Settles O3: the exact rows evaluate, and at an unmapped port the default row decodes. -/
theorem everySelectorDecodes : Obligations.EverySelectorDecodes := by
  refine fun port ops => ⟨?read, ?write⟩
  case read =>
    cases hm : mappedRead port with
    | true =>
      obtain rfl | rfl | rfl | rfl | rfl := mappedRead_eq_true.1 hm
      · exact ⟨.in0, rfl, by decide⟩
      · exact ⟨.in1, rfl, by decide⟩
      · exact ⟨.in2, rfl, by decide⟩
      · exact ⟨.in3, rfl, by decide⟩
      · exact ⟨.in6, rfl, by decide⟩
    | false => exact ⟨.inUnmapped port, decode_read_unmapped hm ops, by simpa using mappedRead_eq_false.1 hm⟩
  case write =>
    cases hm : mappedWrite port with
    | true =>
      obtain rfl | rfl | rfl | rfl | rfl := mappedWrite_eq_true.1 hm
      · exact ⟨.out2 ops.data, rfl, by simp⟩
      · exact ⟨.out3 ops.data, rfl, by simp⟩
      · exact ⟨.out4 ops.data, rfl, by simp⟩
      · exact ⟨.out5 ops.data, rfl, by simp⟩
      · exact ⟨.out6 ops.data, rfl, by simp⟩
    | false => exact ⟨.outUnmapped port ops.data, decode_write_unmapped hm ops, by simpa using mappedWrite_eq_false.1 hm⟩

/-! ## Encoding and decoding back (rules R90 to R92) -/

/-- Settles O1: the selector of an exact row and a command word are literals, on which the decoder evaluates to the same row with
the same operand lines; a default row's port is unmapped, so no exact row takes it first. -/
theorem decodeEncodeRoundTrip : Obligations.DecodeEncodeRoundTrip := by
  intro i hw
  cases i with
  | inUnmapped p => exact decode_read_unmapped (by simpa [Instr.wellFormed] using hw) _
  | outUnmapped p d => exact decode_write_unmapped (by simpa [Instr.wellFormed] using hw) _
  | in0 | in1 | in2 | in3 | in6 | out2 _ | out3 _ | out4 _ | out5 _ | out6 _ => rfl
  | construct _ | poll _ | setquit | reqload | reqsave | dequeue | giveBack _ | snapshot => rfl
  | blitNative _ _ _ | blitRgb332 _ _ _ | blitUpright _ _ _ | blitUpright8bpp _ _ _ => rfl

/-! ## Host command words (rules R92, R107) -/

/-- The command words of rule R92. -/
def hostCommandWords : List Byte :=
  [0x00, 0x10, 0x20, 0x30, 0x40, 0x50, 0x60, 0x70, 0x71, 0x72, 0x73, 0xF0]

theorem decodeHost_unlisted {cmd : Byte} (h : cmd ∉ hostCommandWords) (ops : Operands) :
    decodeHost cmd ops = .error (.notAnOperation cmd) := by
  simp only [hostCommandWords, List.mem_cons, List.not_mem_nil, or_false, not_or] at h
  simp only [decodeHost, h, if_false]

/-- A listed word names a host command; none of these is a default row. -/
theorem decodeHost_listed {cmd : Byte} (h : cmd ∈ hostCommandWords) (ops : Operands) :
    ∃ i, decodeHost cmd ops = .ok i ∧ i.wellFormed = true := by
  revert cmd
  simp only [hostCommandWords, List.forall_mem_cons]
  exact ⟨⟨_, rfl, rfl⟩, ⟨_, rfl, rfl⟩, ⟨_, rfl, rfl⟩, ⟨_, rfl, rfl⟩, ⟨_, rfl, rfl⟩, ⟨_, rfl, rfl⟩, ⟨_, rfl, rfl⟩,
    ⟨_, rfl, rfl⟩, ⟨_, rfl, rfl⟩, ⟨_, rfl, rfl⟩, ⟨_, rfl, rfl⟩, ⟨_, rfl, rfl⟩, nofun⟩

theorem decode_command_wellFormed {cmd : Byte} {ops : Operands} {i : Instr} (h : decode ⟨.hc, [cmd], ops⟩ = .ok i) :
    i.wellFormed = true := by
  by_cases hm : cmd ∈ hostCommandWords
  · obtain ⟨j, hj, hw⟩ := decodeHost_listed hm ops
    cases hj.symm.trans h
    exact hw
  · cases (decodeHost_unlisted hm ops).symm.trans h

/-! ## Everything the decoder accepts -/

/-- An accepted presentation is a read selector, a write selector or a command word. -/
theorem decode_eq_ok_cases {p : Presented} {i : Instr} (h : decode p = .ok i) :
    (∃ port, p = ⟨.pt, [port, 0], p.operands⟩) ∨ (∃ port, p = ⟨.pt, [port, 1], p.operands⟩) ∨
      ∃ cmd, p = ⟨.hc, [cmd], p.operands⟩ := by
  obtain ⟨format, selector, ops⟩ := p
  unfold decode at h
  split at h
  · next port dir hf hsel =>
    cases hf
    cases hsel
    by_cases h0 : dir = 0
    · subst h0; exact .inl ⟨port, rfl⟩
    · by_cases h1 : dir = 1
      · subst h1; exact .inr (.inl ⟨port, rfl⟩)
      · rw [if_neg h0, if_neg h1] at h
        cases h
  · next cmd hf hsel =>
    cases hf
    cases hsel
    exact .inr (.inr ⟨cmd, rfl⟩)
  · cases h
  · cases h

/-- Settles O2, by the three kinds of presentation the decoder accepts. -/
theorem decodedIsWellFormed : Obligations.DecodedIsWellFormed := by
  intro p i h
  obtain ⟨port, hp⟩ | ⟨port, hp⟩ | ⟨cmd, hp⟩ := decode_eq_ok_cases h
  · rw [hp] at h
    exact decode_read_wellFormed h
  · rw [hp] at h
    exact decode_write_wellFormed h
  · rw [hp] at h
    exact decode_command_wellFormed h

/-- Settles O5: each word is a literal, on which the decoder evaluates. -/
theorem specWordsDecode : Obligations.SpecWordsDecode := by
  unfold Obligations.SpecWordsDecode
  decide

end Sys2Proof

namespace Sys2Proof.Machine

/-! ## A command word no rule lists (rule R107) -/

/-- A presented command word that the decoder rejects is refused by name. -/
theorem step_notAnOperation {s : State} {p : Presented} {rest : List Event} {cmd : Byte}
    (hs : s.schedule = .operate p :: rest) (hp : decode p = .error (.notAnOperation cmd)) :
    step s = .refused (.notAnOperation cmd) := by
  simp [step, hs, hp]

/-- Settles O4: the decoder rejects a word outside `hostCommandWords`, and the step hands the rejection on. -/
theorem unlistedCommandsAreRefused : Obligations.UnlistedCommandsAreRefused := by
  refine fun cmd ops => ⟨fun h => ?unlisted, fun h => ?listed⟩
  case unlisted =>
    have hp : decode ⟨.hc, [cmd], ops⟩ = .error (.notAnOperation cmd) := decodeHost_unlisted h ops
    exact ⟨hp, fun s rest hs => step_notAnOperation hs hp⟩
  case listed =>
    obtain ⟨i, hi, _⟩ := decodeHost_listed h ops
    exact ⟨i, hi⟩

end Sys2Proof.Machine

namespace Sys2Proof

/-! ## The input ports under any map of distinct lines (rules R97 to R99, R120 to R122, R127, R128) -/

/-- The line a source samples, none for a fixed level. -/
def BitSource.line? : BitSource → Option LineId
  | .line id => some id
  | .fixed _ => none

/-- The eight sources of a port, bit 0 first. -/
def PortMap.sources (pm : PortMap) : List BitSource := [pm.b0, pm.b1, pm.b2, pm.b3, pm.b4, pm.b5, pm.b6, pm.b7]

/-- The lines a port samples, in the order of its bits. -/
def PortMap.lines (pm : PortMap) : List LineId := pm.sources.filterMap BitSource.line?

end Sys2Proof

namespace Sys2Proof.Machine

/-- What a source reports, given `EDGE_PREV` before the read: a fixed level does not pass through `Sample` (rule R127). -/
def State.seenAt (s : State) (d : Device) : BitSource → Bool
  | .fixed level => level
  | .line id => s.seen d id

/-- The sources sampled one after another: the levels reported and the `EDGE_PREV` that is left. -/
def State.sampleSources (s : State) : List BitSource → LineBits → List Bool × LineBits
  | [], prev => ([], prev)
  | src :: rest, prev =>
    let x := s.sampleSource src prev
    let y := s.sampleSources rest x.2
    (x.1 :: y.1, y.2)

theorem bitsOf_byteOfBits (b0 b1 b2 b3 b4 b5 b6 b7 : Bool) :
    bitsOf (byteOfBits b0 b1 b2 b3 b4 b5 b6 b7) = [b0, b1, b2, b3, b4, b5, b6, b7] := by
  simp only [bitsOf, byteOfBits_getLsbD]

/-- A port read samples the port's eight sources one after another. -/
theorem State.samplePort_eq_sampleSources (s : State) (pm : PortMap) (prev : LineBits) :
    (bitsOf (s.samplePort pm prev).1, (s.samplePort pm prev).2) = s.sampleSources pm.sources prev := by
  simp only [State.samplePort, bitsOf_byteOfBits]
  rfl

section
variable {s : State} {d : Device} {ids : List LineId} {e : LineBits}

theorem State.edgeAfter_nil (s : State) (d : Device) : s.edgeAfter d [] d.edgePrev := fun id => by simp

/-- A line not sampled yet is seen as before the read. -/
theorem State.edgeAfter.sampleLine_fst (h : s.edgeAfter d ids e) {id : LineId} (hn : id ∉ ids) :
    (s.sampleLine id e).1 = s.seen d id := by
  have hprev : e.get id = d.edgePrev.get id := (h id).trans (if_neg fun hx => hn hx.2)
  rw [State.sampleLine_fst, hprev]
  rfl

/-- One more line is sampled. -/
theorem State.edgeAfter.sampleLine_snd (h : s.edgeAfter d ids e) (id : LineId) :
    s.edgeAfter d (ids ++ [id]) (s.sampleLine id e).2 := by
  intro j
  rw [State.sampleLine_snd, h j]
  by_cases hj : id = j
  · subst hj
    by_cases he : s.params.edgeLines.get id = true <;> simp [he]
  · simp [hj, Ne.symm hj]

/-- Sources of distinct lines, none sampled yet, report what is seen before the read, and `EDGE_PREV` has taken their levels. -/
theorem State.edgeAfter.sampleSources (h : s.edgeAfter d ids e) {srcs : List BitSource}
    (hn : (ids ++ srcs.filterMap BitSource.line?).Nodup) :
    (s.sampleSources srcs e).1 = srcs.map (s.seenAt d) ∧
      s.edgeAfter d (ids ++ srcs.filterMap BitSource.line?) (s.sampleSources srcs e).2 := by
  induction srcs generalizing ids e with
  | nil => exact ⟨rfl, (List.append_nil ids).symm ▸ h⟩
  | cons src rest ih =>
    cases src with
    | fixed level =>
      obtain ⟨hv, he⟩ := ih h hn
      exact ⟨congrArg (level :: ·) hv, he⟩
    | line id =>
      have hid : id ∉ ids := fun hx => (List.nodup_cons.1 (List.nodup_middle.1 hn)).1 (List.mem_append_left _ hx)
      have hids : ids ++ (BitSource.line id :: rest).filterMap BitSource.line?
          = (ids ++ [id]) ++ rest.filterMap BitSource.line? := List.append_cons _ _ _
      rw [hids] at hn ⊢
      obtain ⟨hv, he⟩ := ih (h.sampleLine_snd id) hn
      exact ⟨congrArg₂ List.cons (h.sampleLine_fst hid) hv, he⟩

/-- A read of an input port that carries no line twice: its bits, and `EDGE_PREV` after it. -/
theorem State.readInput_samples {pm : PortMap} (hd : s.dev = some d) (hn : pm.lines.Nodup) :
    ∃ v e, s.readInput pm = .next (s.afterOp { d with edgePrev := e } (.value v)) ∧
      bitsOf v = pm.sources.map (s.seenAt d) ∧ s.edgeAfter d pm.lines e := by
  have hs := (s.edgeAfter_nil d).sampleSources (srcs := pm.sources) hn
  rw [← State.samplePort_eq_sampleSources] at hs
  exact ⟨_, _, State.readInput_eq hd pm, hs⟩

end

/-- Settles O10: port 0 of the default map, bits 3:1 hard-wired, carries four distinct lines. -/
theorem in0ReadsPortZero : Obligations.In0ReadsPortZero := by
  intro s d hd hm
  show ∃ v e, s.readInput (hardwiredPort0 s.params.inputMap.port0) = _ ∧ _
  rw [hm]
  exact State.readInput_samples hd (by decide)

/-- Settles O11: port 1 of the default map carries six distinct lines. -/
theorem in1ReadsPortOne : Obligations.In1ReadsPortOne := by
  intro s d hd hm
  show ∃ v e, s.readInput s.params.inputMap.port1 = _ ∧ _
  rw [hm]
  exact State.readInput_samples hd (by decide)

/-- Settles O12: port 2 of the default map carries eight distinct lines. -/
theorem in2ReadsPortTwo : Obligations.In2ReadsPortTwo := by
  intro s d hd hm
  show ∃ v e, s.readInput s.params.inputMap.port2 = _ ∧ _
  rw [hm]
  exact State.readInput_samples hd (by decide)

/-! ## What single port transactions do (rules R93, R94, R100, R113, R124, R125) -/

section
variable {s : State} {d : Device}

theorem exec_in3 (hd : s.dev = some d) : exec .in3 s = .next (s.afterOp d (.value (shiftWindow d.shift d.shamt))) :=
  State.onDevice_some hd _

theorem exec_out2 (hd : s.dev = some d) (b : Byte) :
    exec (.out2 b) s = .next (s.afterOp { d with shamt := shiftAmount b } (.mask 0x00)) :=
  State.onDevice_some hd _

theorem exec_out3 (hd : s.dev = some d) (b : Byte) :
    exec (.out3 b) s = .next (s.afterOp { d with prevA := b } (.mask (triggerA b d.prevA))) :=
  State.onDevice_some hd _

theorem exec_out4 (hd : s.dev = some d) (b : Byte) :
    exec (.out4 b) s = .next (s.afterOp { d with shift := shiftIn d.shift b } (.mask 0x00)) :=
  State.onDevice_some hd _

theorem exec_out5 (hd : s.dev = some d) (b : Byte) :
    exec (.out5 b) s = .next (s.afterOp { d with prevB := b } (.mask (triggerB b d.prevB))) :=
  State.onDevice_some hd _

end

/-- Rule R143's formula is the concatenation `{ d, SHIFT[15:8] }`. -/
theorem shiftIn_eq_or (shift : Half) (b : Byte) : shiftIn shift b = (shift >>> 8) ||| (b.zeroExtend 16 <<< 8) := by
  apply BitVec.eq_of_getLsbD_eq
  intro j hj
  rw [shiftIn_getLsbD, BitVec.getLsbD_or, BitVec.getLsbD_ushiftRight, BitVec.getLsbD_shiftLeft]
  by_cases h : j < 8
  · simp [h]
  · have hs : shift.getLsbD (8 + j) = false := BitVec.getLsbD_of_ge _ _ (by omega)
    simp [h, hs, hj, show j - 8 < 16 by omega]

/-- Rule R100's formula for the read window. -/
theorem shiftWindow_toNat (shift : Half) (shamt : BitVec 3) :
    (shiftWindow shift shamt).toNat = shift.toNat / 2 ^ (8 - shamt.toNat) % 256 := by
  rw [shiftWindow, BitVec.extractLsb'_toNat, BitVec.toNat_ushiftRight, Nat.shiftRight_zero, Nat.shiftRight_eq_div_pow]

/-- Settles O17: the watchdog's read answers on the device as it is, the default row's on the device with `VIOL_RD` raised. -/
theorem watchdogAndUnmappedReads : Obligations.WatchdogAndUnmappedReads := fun _ _ hd =>
  ⟨State.onDevice_some hd _, fun _ => State.onDevice_some hd _⟩

/-- Settles O19: `SHAMT` becomes the byte's low three bits. -/
theorem out2SetsShiftAmount : Obligations.Out2SetsShiftAmount := fun _ _ b hd =>
  ⟨shiftAmount b, exec_out2 hd b, shiftAmount_toNat b⟩

/-- Settles O20, by the two forms of the shifted register. -/
theorem out4ShiftsByteIn : Obligations.Out4ShiftsByteIn := fun _ d b hd =>
  shiftIn_eq_or d.shift b ▸ exec_out4 hd b

/-- Settles O28: `(3 - 3) << 2` is 0 and `(5 - 3) << 2` is 8. -/
theorem sampleIndexSpansSixteenSlots : Obligations.SampleIndexSpansSixteenSlots := fun i _ =>
  ⟨Nat.zero_add i, rfl⟩

/-! ## The snapshot (rules R181, R189) -/

/-- Settles O34: outside a POLL the producer refuses; inside one the snapshot takes the lowest free buffer and fills it from
video RAM. -/
theorem snapshotFillsLowestFree : Obligations.SnapshotFillsLowestFree := by
  refine fun s d hd => ⟨fun hp => State.produce_outside hd hp, fun hp k hk hj => ⟨frameOf s.mem, ?taken, fun o ho => ?byte⟩⟩
  case taken => exact Device.snapshot_taken hk hj s.mem ▸ State.produce_inside hd hp
  case byte => exact (read_frameOf s.mem o).trans (if_pos ho)

/-! ## The pseudo-operations (rule R112) -/

/-- Two operations, one after the other: the state the second leaves, and both answers. -/
theorem execList_pair {i j : Instr} {s t u : State} (hi : exec i s = .next t) (hj : exec j t = .next u) :
    execList [i, j] s = some (u, [t.result, u.result]) := by
  rw [execList_cons hi, execList_cons hj]
  rfl

/-- A poll that fires returns `NEXT`, flips it and records its time, whichever of the two interrupts takes the snapshot. -/
theorem Device.Effect.poll_fires {s : State} {d d' : Device} {t : Time} {r : Result} (h : d.Effect s (.poll t) r d')
    (hq : d.quit = false) (ht : d.lastT ≠ some t) :
    r = .isr (rasterIsr d.next) ∧ d'.quit = false ∧ d'.next = flipIrq d.next ∧ d'.lastT = some t := by
  have hfires : d.fires t = true := Device.fires_eq_true.2 ht
  cases h with
  | pollFrame | pollOther => simp [hq]
  | pollQuit t hq' => simp [hq] at hq'
  | pollLoad t _ hf | pollSave t _ hf | pollNone t _ hf => simp [hfires] at hf
  | blit _ _ hb => cases hb

/-- `FRAME t1, t2`: the second poll finds `NEXT` flipped and another time recorded, so it fires too. -/
theorem execList_pseudoFrame {s : State} {d : Device} {t1 t2 : Time} (hd : s.dev = some d) (hq : d.quit = false)
    (hne : t1 ≠ t2) (h1 : d.lastT ≠ some t1) :
    ∃ t, execList (pseudoFrame t1 t2) s = some (t, [.isr (rasterIsr d.next), .isr (rasterIsr (flipIrq d.next))]) := by
  obtain ⟨t, d', ht, hd', hEffect⟩ := exec_hasEffect hd (i := .poll t1) rfl
  obtain ⟨hr, hq', hnext, hlast⟩ := hEffect.poll_fires hq h1
  obtain ⟨u, d'', hu, _, hEffect'⟩ := exec_hasEffect hd' (i := .poll t2) rfl
  obtain ⟨hr', _⟩ := hEffect'.poll_fires hq' (by simpa [hlast] using hne)
  exact ⟨u, by rw [pseudoFrame, execList_pair ht hu, hr, hr', hnext]⟩

/-- A pulse on bit `i` after the byte 0 rises there (rule R140). -/
theorem rise_pulse {i : Nat} (hi : i < 8) : (rise (1#8 <<< i) 0).getLsbD i = true := by
  rw [rise_getLsbD, bit_of_shift hi hi]
  simp

/-- So it triggers bit `i` of bank A, bit 0 too (rule R142). -/
theorem triggerA_pulse {i : Nat} (hi : i < 8) : (triggerA (1#8 <<< i) 0).getLsbD i = true := by
  rw [triggerA_getLsbD]
  by_cases h : i = 0
  · subst h; rfl
  · rw [if_neg h, ← rise_getLsbD]
    exact rise_pulse hi

/-- Writing 0 to bank A triggers bit 0 again where it was set before, and no other bit (rule R142). -/
theorem triggerA_zero_pulse {i : Nat} (hi : i < 8) : triggerA 0 (1#8 <<< i) = if i = 0 then 0x01 else 0x00 := by
  have h : ∀ k : Fin 8, triggerA 0 (1#8 <<< k.val) = if k.val = 0 then 0x01 else 0x00 := by decide
  exact h ⟨i, hi⟩

/-- Writing 0 to bank B triggers nothing (rule R144). -/
theorem triggerB_zero (prev : Byte) : triggerB 0 prev = 0x00 := by
  simp [triggerB, rise]

/-- `SOUNDPULSE 3, i`: the second mask is decided by the byte of the first write. -/
theorem execList_pseudoSoundPulseA {s : State} {d : Device} (hd : s.dev = some d) (i : Nat) :
    ∃ t, execList (pseudoSoundPulseA i) s
      = some (t, [.mask (triggerA (1#8 <<< i) d.prevA), .mask (triggerA 0 (1#8 <<< i))]) := by
  have h := execList_pair (exec_out3 hd (1#8 <<< i)) (exec_out3 rfl 0)
  exact ⟨_, h⟩

/-- `SOUNDPULSE 5, i`: so too for bank B. -/
theorem execList_pseudoSoundPulseB {s : State} {d : Device} (hd : s.dev = some d) (i : Nat) :
    ∃ t, execList (pseudoSoundPulseB i) s
      = some (t, [.mask (triggerB (1#8 <<< i) d.prevB), .mask (triggerB 0 (1#8 <<< i))]) := by
  have h := execList_pair (exec_out5 hd (1#8 <<< i)) (exec_out5 rfl 0)
  exact ⟨_, h⟩

/-- Settles O60, pseudo-operation by pseudo-operation: each is a pair of operations. -/
theorem pseudoOperationsDo : Obligations.PseudoOperationsDo := by
  intro s d hd
  refine ⟨fun lo hi => ?shiftLoad, fun n => ?shiftRead, fun t1 t2 hq hnext hne h1 _ => ?frame, fun i hi hprev => ?pulseA,
    fun i hi hprev => ?pulseB⟩
  case shiftLoad =>
    refine ⟨_, _, execList_pair (exec_out4 hd lo) (exec_out4 rfl hi), ?_⟩
    rw [← shiftIn_shiftIn d.shift lo hi]
    rfl
  case shiftRead =>
    exact ⟨_, _, _, execList_pair (exec_out2 hd n) (exec_in3 rfl), rfl, by rw [shiftWindow_toNat, shiftAmount_toNat]⟩
  case frame => simpa [hnext, rasterIsr, flipIrq] using execList_pseudoFrame hd hq hne h1
  case pulseA =>
    obtain ⟨t, ht⟩ := execList_pseudoSoundPulseA hd i
    rw [triggerA_zero_pulse hi, hprev] at ht
    exact ⟨t, _, ht, triggerA_pulse hi⟩
  case pulseB =>
    obtain ⟨t, ht⟩ := execList_pseudoSoundPulseB hd i
    rw [triggerB_zero, hprev] at ht
    exact ⟨t, _, ht, rise_pulse hi⟩

end Sys2Proof.Machine

/-! PROOFS. The port reads (spec/40_port_reads.md): level sampling (rule R127), the read window of the shift register (rules R123,
R147), and what a port read leaves unchanged (rule R126). -/

namespace Sys2Proof.Machine

/-! ## Level sampling (rules R120 to R122, R127) -/

/-- With no edge-sampled line a source reports its level. -/
theorem State.sampleSource_eq_levelOf {s : State} (h : s.params.edgeLines = LineBits.none) (src : BitSource)
    (prev : LineBits) : s.sampleSource src prev = (s.levelOf src, prev) := by
  rw [State.sampleSource_level h]
  cases src <;> rfl

/-- With no edge-sampled line the eight bits of a port are the levels of its sources. -/
theorem State.bitsOf_samplePort_level {s : State} (h : s.params.edgeLines = LineBits.none) (pm : PortMap)
    (prev : LineBits) : bitsOf (s.samplePort pm prev).1 = s.levelsOf pm := by
  simp only [State.samplePort, State.sampleSource_eq_levelOf h, bitsOf_byteOfBits, State.levelsOf]

/-- With no edge-sampled line a read of an input port reports levels and leaves the device as it was. -/
theorem State.readInput_level {s : State} {d : Device} (hd : s.dev = some d) (h : s.params.edgeLines = LineBits.none)
    (pm : PortMap) : ∃ v, s.readInput pm = .next (s.afterOp d (.value v)) ∧ bitsOf v = s.levelsOf pm := by
  refine ⟨_, ?_, State.bitsOf_samplePort_level h pm d.edgePrev⟩
  rw [State.readInput_eq hd, State.samplePort_level h]
  rfl

/-- Settles O13: each of the three reads is `readInput` of its port's map, port 0's with bits 3:1 hard-wired. -/
theorem levelSamplingAnyMap : Obligations.LevelSamplingAnyMap := fun s _ hd h =>
  ⟨State.readInput_level hd h (hardwiredPort0 s.params.inputMap.port0), State.readInput_level hd h s.params.inputMap.port1,
    State.readInput_level hd h s.params.inputMap.port2⟩

/-! ## The read window (rule R123) -/

/-- The window is the high byte of the register shifted left by `SHAMT` within its 16 bits. -/
theorem shiftWindow_eq_high_byte (shift : Half) (shamt : BitVec 3) :
    shiftWindow shift shamt = ((shift <<< shamt.toNat) >>> 8).truncate 8 := by
  apply BitVec.eq_of_getLsbD_eq
  intro j hj
  have hs : shamt.toNat < 8 := shamt.isLt
  rw [shiftWindow_getLsbD, BitVec.truncate_eq_setWidth, BitVec.getLsbD_setWidth, BitVec.getLsbD_ushiftRight,
    BitVec.getLsbD_shiftLeft, Nat.add_comm j 8]
  simp [hj, show 8 + j < 16 by omega, show ¬ 8 + j < shamt.toNat by omega]

/-- The window lies within bits 1 to 15 of the register, so registers that agree there show the same one. -/
theorem shiftWindow_congr {x y : Half} (h : ∀ j, 1 ≤ j → j < 16 → x.getLsbD j = y.getLsbD j) (shamt : BitVec 3) :
    shiftWindow x shamt = shiftWindow y shamt := by
  apply BitVec.eq_of_getLsbD_eq
  intro j hj
  have hs : shamt.toNat < 8 := shamt.isLt
  rw [shiftWindow_getLsbD, shiftWindow_getLsbD, h (j + 8 - shamt.toNat) (by omega) (by omega)]

/-- Settles O15, by the three forms of the window. -/
theorem in3ReadsShiftWindow : Obligations.In3ReadsShiftWindow := fun _ d hd =>
  ⟨shiftWindow d.shift d.shamt, exec_in3 hd, shiftWindow_toNat d.shift d.shamt,
    fun j hj => by rw [shiftWindow_getLsbD, decide_eq_true hj, Bool.true_and], shiftWindow_eq_high_byte d.shift d.shamt⟩

/-- Settles O16: the two registers show the same window. -/
theorem in3NeverShowsBitZero : Obligations.In3NeverShowsBitZero := fun _ d _ hd hx =>
  ⟨shiftWindow d.shift d.shamt, exec_in3 hd, shiftWindow_congr hx d.shamt ▸ exec_in3 rfl⟩

/-! ## The frame of a port read (rule R126) -/

/-- Settles O18, port by port: only the default row raises `VIOL_RD`. -/
theorem portReadsFrame : Obligations.PortReadsFrame := by
  intro i s d hd hi
  cases i with
  | in0 | in1 | in2 => exact ⟨_, _, d.violRd, State.readInput_eq hd _, by simp⟩
  | in3 => exact ⟨_, d.edgePrev, d.violRd, exec_in3 hd, by simp⟩
  | in6 => exact ⟨_, d.edgePrev, d.violRd, (watchdogAndUnmappedReads s d hd).1, by simp⟩
  | inUnmapped p => exact ⟨_, d.edgePrev, true, (watchdogAndUnmappedReads s d hd).2 p, by simp⟩
  | _ => cases hi

/-! ## The sliding window (rule R147) -/

/-- The window on two written bytes, `a` before `b`: its low bits are the top bits of `a`, the others the low bits of `b`. -/
theorem shiftWindow_append_getLsbD (a b : Byte) (shamt : BitVec 3) {j : Nat} (hj : j < 8) :
    (shiftWindow (b ++ a) shamt).getLsbD j
      = if j < shamt.toNat then a.getLsbD (8 - shamt.toNat + j) else b.getLsbD (j - shamt.toNat) := by
  have hs : shamt.toNat < 8 := shamt.isLt
  rw [shiftWindow_getLsbD, BitVec.getLsbD_append]
  by_cases h : j < shamt.toNat
  · simp [hj, h, show j + 8 - shamt.toNat = 8 - shamt.toNat + j by omega, show 8 - shamt.toNat + j < 8 by omega]
  · simp [hj, h, show ¬ j + 8 - shamt.toNat < 8 by omega, show j + 8 - shamt.toNat - 8 = j - shamt.toNat by omega]

/-- IN 3 after three updates of the device answers the window of the registers they leave. -/
theorem execList_then_in3 {i j k : Instr} {s : State} {d1 d2 d3 : Device} {r1 r2 r3 : Result} {shift : Half}
    {shamt : BitVec 3} (hi : exec i s = .next (s.afterOp d1 r1))
    (hj : ∀ {t : State}, t.dev = some d1 → exec j t = .next (t.afterOp d2 r2))
    (hk : ∀ {t : State}, t.dev = some d2 → exec k t = .next (t.afterOp d3 r3))
    (hshift : d3.shift = shift) (hshamt : d3.shamt = shamt) :
    ∃ x rs, execList [i, j, k, .in3] s = some (x, rs) ∧ x.result = .value (shiftWindow shift shamt) := by
  rw [execList_cons hi, execList_cons (hj rfl), execList_pair (hk rfl) (exec_in3 rfl), hshift, hshamt]
  exact ⟨_, _, rfl, rfl⟩

/-- Settles O21: in any of the three orders IN 3 finds `SHIFT` at `{b, a}`, whatever it held, and `SHAMT` at the amount. -/
theorem slidingWindow : Obligations.SlidingWindow := by
  intro s d a b n hd ops hops
  have hshift : shiftIn (shiftIn d.shift a) b = b ++ a := shiftIn_shiftIn d.shift a b
  have hread : ∃ t rs, execList ops s = some (t, rs) ∧ t.result = .value (shiftWindow (b ++ a) (shiftAmount n)) := by
    simp only [List.mem_cons, List.not_mem_nil, or_false] at hops
    obtain rfl | rfl | rfl := hops
    · exact execList_then_in3 (exec_out4 hd a) (exec_out4 · b) (exec_out2 · n) hshift rfl
    · exact execList_then_in3 (exec_out4 hd a) (exec_out2 · n) (exec_out4 · b) hshift rfl
    · exact execList_then_in3 (exec_out2 hd n) (exec_out4 · a) (exec_out4 · b) hshift rfl
  obtain ⟨t, rs, ht, hr⟩ := hread
  exact ⟨t, rs, _, ht, hr, fun j hj => shiftAmount_toNat n ▸ shiftWindow_append_getLsbD a b (shiftAmount n) hj⟩

end Sys2Proof.Machine

/-! PROOFS. The port writes (spec/41_port_writes.md): the two forms of the edge test (rule R140), what each port write stores and
triggers (rules R142, R144 to R146), that two consecutive writes to a sound port decide the second mask (rule R149), and what a
port write leaves unchanged (rule R150). -/

namespace Sys2Proof.Machine

/-! ## The two forms of the edge test (rule R140) -/

/-- A byte masked to one bit, as a number. -/
theorem and_bit_toNat (x : Byte) {i : Nat} (hi : i < 8) :
    (x &&& (1#8 <<< i)).toNat = if x.getLsbD i then 2 ^ i else 0 := by
  rw [← BitVec.twoPow_eq, BitVec.and_twoPow]
  split
  · exact BitVec.toNat_twoPow_of_lt hi
  · rfl

/-- The source's unsigned comparison of the masked bytes is bit `i` of `Rise`. -/
theorem rise_getLsbD_eq_comparison (d prev : Byte) {i : Nat} (hi : i < 8) :
    (rise d prev).getLsbD i = decide ((prev &&& (1#8 <<< i)).toNat < (d &&& (1#8 <<< i)).toNat) := by
  rw [rise_getLsbD, and_bit_toNat d hi, and_bit_toNat prev hi]
  cases d.getLsbD i <;> cases prev.getLsbD i <;> simp

/-- Settles O22: the comparison form, and the definition of `Rise` bit by bit. -/
theorem edgeTestFormsAgree : Obligations.EdgeTestFormsAgree := fun d prev i hi =>
  ⟨rise_getLsbD_eq_comparison d prev hi, rise_getLsbD d prev i⟩

/-! ## What each port write does (rules R142, R144 to R146) -/

/-- Settles O23: the mask is `triggerA` against the old `PREVA`. -/
theorem out3TriggersBankA : Obligations.Out3TriggersBankA := fun _ d b hd =>
  ⟨triggerA b d.prevA, exec_out3 hd b, rfl, fun i _ => triggerA_getLsbD b d.prevA i⟩

/-- Settles O24: the mask is `Rise` against the old `PREVB`. -/
theorem out5TriggersBankB : Obligations.Out5TriggersBankB := fun _ d b hd =>
  ⟨triggerB b d.prevB, exec_out5 hd b, fun i _ => rise_getLsbD b d.prevB i⟩

/-- Settles O26: the watchdog's write leaves the device as it is, the default row's raises `VIOL_WR`. -/
theorem watchdogAndUnmappedWrites : Obligations.WatchdogAndUnmappedWrites := fun _ _ _ hd =>
  ⟨State.onDevice_some hd _, fun _ => State.onDevice_some hd _⟩

/-! ## The frame of a port write (rule R150) -/

/-- Settles O27, port by port: each names the one register it writes and leaves the others. -/
theorem portWritesFrame : Obligations.PortWritesFrame := by
  intro i s d hd hi
  cases i with
  | out2 b => exact ⟨_, _, exec_out2 hd b, rfl, .inr rfl, .inl ⟨b, rfl⟩, .inr rfl, .inr rfl, .inr rfl⟩
  | out3 b => exact ⟨_, _, exec_out3 hd b, rfl, .inr rfl, .inr rfl, .inl ⟨b, rfl⟩, .inr rfl, .inr rfl⟩
  | out4 b => exact ⟨_, _, exec_out4 hd b, rfl, .inl ⟨b, rfl⟩, .inr rfl, .inr rfl, .inr rfl, .inr rfl⟩
  | out5 b => exact ⟨_, _, exec_out5 hd b, rfl, .inr rfl, .inr rfl, .inr rfl, .inl ⟨b, rfl⟩, .inr rfl⟩
  | out6 b =>
    exact ⟨_, _, (watchdogAndUnmappedWrites s d b hd).1, rfl, .inr rfl, .inr rfl, .inr rfl, .inr rfl, .inr rfl⟩
  | outUnmapped p b =>
    exact ⟨_, _, (watchdogAndUnmappedWrites s d b hd).2 p, rfl, .inr rfl, .inr rfl, .inr rfl, .inr rfl, .inl ⟨p, b, rfl⟩⟩
  | _ => cases hi

/-! ## Lists of operations without CONSTRUCT -/

theorem Instr.isConstruct_of_mem {ops : List Instr} (hc : ∀ c, Instr.construct c ∉ ops) {i : Instr} (hi : i ∈ ops) :
    i.isConstruct = false := by
  cases i with
  | construct c => exact absurd hi (hc c)
  | _ => rfl

/-- A list of operations followed by another: the second goes on from the state the first leaves. -/
theorem execList_append {ops : List Instr} {s t : State} {rs : List Result} (h : execList ops s = some (t, rs))
    (rest : List Instr) : execList (ops ++ rest) s = (execList rest t).map fun x => (x.1, rs ++ x.2) := by
  induction ops generalizing s rs with
  | nil =>
    cases h
    simp
  | cons i ops ih =>
    obtain ⟨u, hu⟩ := everyOperationAnswers i s
    rw [execList_cons hu] at h
    obtain ⟨⟨t', rs'⟩, hops, he⟩ := Option.map_eq_some_iff.1 h
    cases he
    rw [List.cons_append, execList_cons hu, ih hops, Option.map_map]
    rfl

/-- What every operation of the list keeps of the device holds of the device the list leaves. -/
theorem execList_keeps {P : Device → Prop} {ops : List Instr} (hc : ∀ c, Instr.construct c ∉ ops)
    (hkeeps : ∀ i ∈ ops, ∀ {s d r d'}, Device.Effect s d i r d' → P d → P d') {s : State} {d : Device}
    (hd : s.dev = some d) (hP : P d) : ∃ t rs d', execList ops s = some (t, rs) ∧ t.dev = some d' ∧ P d' := by
  induction ops generalizing s d with
  | nil => exact ⟨s, [], d, rfl, hd, hP⟩
  | cons i ops ih =>
    obtain ⟨u, e, hu, he, heffect⟩ := exec_hasEffect hd (Instr.isConstruct_of_mem hc List.mem_cons_self)
    obtain ⟨t, rs, d', hops, hd', hP'⟩ := ih (fun c hx => hc c (List.mem_cons_of_mem i hx))
      (fun j hj => hkeeps j (List.mem_cons_of_mem i hj)) he (hkeeps i List.mem_cons_self heffect hP)
    exact ⟨t, u.result :: rs, d', by rw [execList_cons hu, hops]; rfl, hd', hP'⟩

/-! ## Consecutive writes to a sound port (rule R149) -/

/-- Only OUT 3 writes `PREVA`. -/
theorem Device.Effect.prevA_eq {s : State} {d d' : Device} {i : Instr} {r : Result} (h : d.Effect s i r d')
    (hi : ∀ b, i ≠ .out3 b) : d'.prevA = d.prevA := by
  cases h with
  | out3 b => exact absurd rfl (hi b)
  | pollFrame t => rw [Device.snapshot_prevA, Device.turn_prevA]
  | snapshotInside => exact d.snapshot_prevA s.mem
  | _ => rfl

/-- Only OUT 5 writes `PREVB`. -/
theorem Device.Effect.prevB_eq {s : State} {d d' : Device} {i : Instr} {r : Result} (h : d.Effect s i r d')
    (hi : ∀ b, i ≠ .out5 b) : d'.prevB = d.prevB := by
  cases h with
  | out5 b => exact absurd rfl (hi b)
  | pollFrame t => rw [Device.snapshot_prevB, Device.turn_prevB]
  | snapshotInside => exact d.snapshot_prevB s.mem
  | _ => rfl

/-- The first operation establishes `P` of the device, the operations in between keep it, and with it the last answers `r`. -/
theorem execList_between {P : Device → Prop} {first last : Instr} {ops : List Instr} {s u : State} {d : Device} {r : Result}
    (hfirst : exec first s = .next u) (hd : u.dev = some d) (hP : P d) (hc : ∀ c, Instr.construct c ∉ ops)
    (hkeeps : ∀ i ∈ ops, ∀ {s d r d'}, Device.Effect s d i r d' → P d → P d')
    (hlast : ∀ {t d'}, t.dev = some d' → P d' → ∃ v, exec last t = .next v ∧ v.result = r) :
    ∃ t rs, execList ([first] ++ ops ++ [last]) s = some (t, rs) ∧ t.result = r := by
  obtain ⟨t, rs, d', hops, hd', hP'⟩ := execList_keeps hc hkeeps hd hP
  obtain ⟨v, hv, hr⟩ := hlast hd' hP'
  refine ⟨v, u.result :: (rs ++ [v.result]), ?_, hr⟩
  rw [List.append_assoc, List.singleton_append, execList_cons hfirst, execList_append hops, execList_cons hv]
  rfl

/-- Settles O25: the first write leaves its byte in `PREVA` or `PREVB`, no operation in between writes that register, and the
second mask is computed from it. -/
theorem soundTriggersByConsecutiveWrites : Obligations.SoundTriggersByConsecutiveWrites := by
  intro s ops b1 b2 hdev hc
  obtain ⟨d, hd⟩ := Option.ne_none_iff_exists'.1 hdev
  refine ⟨fun h3 => ?bankA, fun h5 => ?bankB⟩
  case bankA =>
    obtain ⟨t, rs, ht, hr⟩ := execList_between (P := fun d => d.prevA = b1) (last := .out3 b2) (r := .mask (triggerA b2 b1))
      (exec_out3 hd b1) rfl rfl hc (fun _ hi _ _ _ _ he hp => (he.prevA_eq fun b hb => h3 b (hb ▸ hi)).trans hp)
      (fun hd' hp => ⟨_, exec_out3 hd' b2, hp ▸ rfl⟩)
    exact ⟨t, rs, _, ht, hr, fun i _ => triggerA_getLsbD b2 b1 i⟩
  case bankB =>
    obtain ⟨t, rs, ht, hr⟩ := execList_between (P := fun d => d.prevB = b1) (last := .out5 b2) (r := .mask (triggerB b2 b1))
      (exec_out5 hd b1) rfl rfl hc (fun _ hi _ _ _ _ he hp => (he.prevB_eq fun b hb => h5 b (hb ▸ hi)).trans hp)
      (fun hd' hp => ⟨_, exec_out5 hd' b2, hp ▸ rfl⟩)
    exact ⟨t, rs, _, ht, hr, fun i _ => rise_getLsbD b2 b1 i⟩

end Sys2Proof.Machine

/-! PROOFS. The Interrupt Scheduler (spec/42_interrupt_scheduler.md): the rows of POLL (rules R160, R170), alternation (rule R161),
quit and the end of a run (rules R162, R248, R287), the load and save requests (rule R166), and HOST's signals (rules R163 to R165). -/

namespace Sys2Proof.Machine

/-! ## HOST's signals (rules R163 to R165) -/

/-- Settles O33: each signal is one update of the device. -/
theorem hostSignalsSetFlags : Obligations.HostSignalsSetFlags := fun _ _ hd =>
  ⟨State.onDevice_some hd _, State.onDevice_some hd _, State.onDevice_some hd _⟩

/-! ## The rows of POLL (rule R170) -/

/-- What a poll that does not fire returns for the request pending. -/
def LsReq.isr : LsReq → Isr
  | .load => .load
  | .save => .save
  | .none => .none

/-- Clearing `LSREQ` changes nothing where no request is pending. -/
theorem Device.clear_lsreq {d : Device} (h : d.lsreq = .none) : { d with lsreq := .none } = d := by
  rw [← h]

section
variable {s : State} {d : Device} {t : Time}

theorem exec_poll_quit (hd : s.dev = some d) (hq : d.quit = true) (t : Time) :
    exec (.poll t) s = .next (s.afterOp d (.isr .quit)) := by
  simp only [exec, execPoll, State.onDevice_some hd, hq, if_true]
  rfl

theorem exec_poll_fires (hd : s.dev = some d) (hq : d.quit = false) (ht : d.lastT ≠ some t) :
    exec (.poll t) s = s.fire d t := by
  simp [exec, execPoll, State.onDevice_some hd, hq, Device.fires_eq_true.2 ht]

/-- A poll that does not fire answers the request pending and clears `LSREQ`. -/
theorem exec_poll_pending (hd : s.dev = some d) (hq : d.quit = false) (ht : d.lastT = some t) :
    exec (.poll t) s = .next (s.afterOp { d with lsreq := .none } (.isr d.lsreq.isr)) := by
  have hf : ¬ d.fires t = true := fun h => Device.fires_eq_true.1 h ht
  simp only [exec, execPoll, State.onDevice_some hd]
  rw [if_neg (by simp [hq]), if_neg hf]
  split
  · next hl => rw [hl]; rfl
  · next hl => rw [hl]; rfl
  · next hl => rw [Device.clear_lsreq hl, hl]; rfl

end

/-- Settles O29, row by row: the firing rows are those of `State.fire`, the last three the poll that does not fire. -/
theorem pollFollowsTable : Obligations.PollFollowsTable := by
  refine fun s d t hd => ⟨fun hq => exec_poll_quit hd hq t, fun hq ht hn => ?other, fun hq ht hn => ?frame,
    fun hq ht hl => ?load, fun hq ht hl => ?save, fun hq ht hl => ?none⟩
  case other => exact (exec_poll_fires hd hq ht).trans (State.fire_other hn t)
  case frame =>
    have hsnapshot := State.produce_inside (s := { s with dev := some (d.turn t), inPoll := true }) rfl rfl
    exact ⟨_, hsnapshot, (exec_poll_fires hd hq ht).trans (State.fire_frame hn t)⟩
  case load => rw [exec_poll_pending hd hq ht, hl]; rfl
  case save => rw [exec_poll_pending hd hq ht, hl]; rfl
  case none => rw [exec_poll_pending hd hq ht, Device.clear_lsreq hl, hl]; rfl

/-! ## Which operations answer an interrupt -/

/-- Without a device no operation but CONSTRUCT has a step (rule R273). -/
theorem exec_noDevice {i : Instr} {s : State} (hd : s.dev = none) (hc : i.isConstruct = false) :
    exec i s = .next (s.afterRefusal .noDevice) := by
  cases i with
  | construct _ => cases hc
  | blitUpright8bpp dst src stride =>
    obtain ⟨fits, paint, h⟩ := exec_blitUpright8bpp_eq_blit s dst src stride
    exact h.trans (State.onDevice_none hd _)
  | _ => exact State.onDevice_none hd _

theorem execConstruct_result_ne_isr {cfg : Cfg} {s t : State} (h : execConstruct cfg s = .next t) (x : Isr) :
    t.result ≠ .isr x := by
  unfold execConstruct at h
  split at h <;> cases h <;> exact nofun

theorem State.blit_result_ne_isr {s t : State} {sub : BitVec 2} {dst : DstBuf} {src : Source} {fits : Bool}
    {paint : Device → Memory → Memory} (h : s.blit sub dst src fits paint = .next t) (x : Isr) : t.result ≠ .isr x := by
  obtain ⟨_, rfl⟩ | ⟨_, _, -, -, -, -, -, rfl⟩ := State.blit_cases h <;> exact nofun

theorem exec_blit_result_ne_isr {i : Instr} {s t : State} (hb : i.isBlit = true) (h : exec i s = .next t) (x : Isr) :
    t.result ≠ .isr x := by
  cases i with
  | blitNative _ _ _ | blitRgb332 _ _ _ | blitUpright _ _ _ => exact State.blit_result_ne_isr h x
  | blitUpright8bpp dst src stride =>
    obtain ⟨fits, paint, he⟩ := exec_blitUpright8bpp_eq_blit s dst src stride
    exact State.blit_result_ne_isr (he.symm.trans h) x
  | _ => cases hb

theorem Device.Effect.poll_of_isr {s : State} {d d' : Device} {i : Instr} {r : Result} {x : Isr} (h : d.Effect s i r d')
    (hr : r = .isr x) : (∃ t, i = .poll t) ∨ i.isBlit = true := by
  cases h with
  | pollQuit t | pollFrame t | pollOther t | pollLoad t | pollSave t | pollNone t => exact .inl ⟨t, rfl⟩
  | blit _ _ hb => exact .inr hb
  | _ => cases hr

/-- Only a poll of a device answers an interrupt. -/
theorem exec_poll_of_isr {i : Instr} {s t : State} {x : Isr} (h : exec i s = .next t) (hr : t.result = .isr x) :
    ∃ u d, i = .poll u ∧ s.dev = some d := by
  cases hc : i.isConstruct with
  | true =>
    cases i with
    | construct cfg => exact absurd hr (execConstruct_result_ne_isr h x)
    | _ => cases hc
  | false =>
    cases hd : s.dev with
    | none =>
      cases (exec_noDevice hd hc).symm.trans h
      cases hr
    | some d =>
      obtain ⟨_, d', hu, -, heffect⟩ := exec_hasEffect hd hc
      cases hu.symm.trans h
      obtain ⟨u, rfl⟩ | hb := heffect.poll_of_isr hr
      · exact ⟨u, d, rfl, rfl⟩
      · exact absurd hr (exec_blit_result_ne_isr hb h x)

/-! ## Alternation (rule R161) -/

theorem rasterOf_cons_raster (q : RasterIrq) (rs : List Result) : rasterOf (.isr (rasterIsr q) :: rs) = q :: rasterOf rs := by
  cases q <;> rfl

theorem rasterOf_cons_of_ne_isr {r : Result} (hr : ∀ x, r ≠ .isr x) (rs : List Result) : rasterOf (r :: rs) = rasterOf rs := by
  cases r with
  | isr x => exact absurd rfl (hr x)
  | _ => rfl

theorem alternatesFrom_cons_self (q : RasterIrq) (qs : List RasterIrq) :
    alternatesFrom q (q :: qs) = alternatesFrom (flipIrq q) qs := by
  cases q <;> rfl

/-- An operation answers `NEXT` and flips it, or answers no raster interrupt and leaves it. -/
theorem Device.Effect.raster_cases {s : State} {d d' : Device} {i : Instr} {r : Result} (h : d.Effect s i r d')
    (hb : i.isBlit = true → ∀ x, r ≠ .isr x) :
    (r = .isr (rasterIsr d.next) ∧ d'.next = flipIrq d.next) ∨
    ((∀ rs, rasterOf (r :: rs) = rasterOf rs) ∧ d'.next = d.next) := by
  cases h with
  | pollFrame t | pollOther t => exact .inl ⟨rfl, by simp⟩
  | snapshotInside => exact .inr ⟨fun _ => rfl, d.snapshot_next s.mem⟩
  | blit _ _ hblit => exact .inr ⟨rasterOf_cons_of_ne_isr (hb hblit), rfl⟩
  | _ => exact .inr ⟨fun _ => rfl, rfl⟩

/-- The raster interrupts a list of operations without CONSTRUCT answers alternate, starting with `NEXT`. -/
theorem execList_alternates {ops : List Instr} (hc : ∀ c, Instr.construct c ∉ ops) {s : State} {d : Device}
    (hd : s.dev = some d) : ∃ t rs, execList ops s = some (t, rs) ∧ alternatesFrom d.next (rasterOf rs) = true := by
  induction ops generalizing s d with
  | nil => exact ⟨s, [], rfl, rfl⟩
  | cons i ops ih =>
    obtain ⟨u, e, hu, he, heffect⟩ := exec_hasEffect hd (Instr.isConstruct_of_mem hc List.mem_cons_self)
    obtain ⟨t, rs, hops, halt⟩ := ih (fun c hx => hc c (List.mem_cons_of_mem i hx)) he
    refine ⟨t, u.result :: rs, by rw [execList_cons hu, hops]; rfl, ?_⟩
    obtain ⟨hr, hnext⟩ | ⟨hr, hnext⟩ := heffect.raster_cases (fun hb => exec_blit_result_ne_isr hb hu)
    · rw [hr, rasterOf_cons_raster, alternatesFrom_cons_self, ← hnext]
      exact halt
    · rw [hr, ← hnext]
      exact halt

/-- Polls each with another time than the one before all fire. -/
theorem execList_polls_fire {ts : List Time} (hts : List.IsChain (· ≠ ·) ts) {s : State} {d : Device} (hd : s.dev = some d)
    (hq : d.quit = false) (hhead : ∀ t0 ∈ ts.head?, d.lastT ≠ some t0) :
    ∃ t rs, execList (ts.map .poll) s = some (t, rs) ∧ (rasterOf rs).length = ts.length := by
  induction ts generalizing s d with
  | nil => exact ⟨s, [], rfl, rfl⟩
  | cons x ts ih =>
    obtain ⟨hx, hts⟩ := List.isChain_cons.1 hts
    obtain ⟨u, e, hu, he, heffect⟩ := exec_hasEffect hd (i := .poll x) rfl
    obtain ⟨hr, hq', -, hlast⟩ := heffect.poll_fires hq (hhead x rfl)
    obtain ⟨t, rs, hrest, hlen⟩ := ih hts he hq' fun y hy h => hx y hy (Option.some.inj (hlast.symm.trans h))
    refine ⟨t, u.result :: rs, by rw [List.map_cons, execList_cons hu, hrest]; rfl, ?_⟩
    rw [hr, rasterOf_cons_raster, List.length_cons, List.length_cons, hlen]

/-- Settles O30: every operation answers `NEXT` and flips it or leaves it, polls with changing times all answer it, and the
reset device's `NEXT` is `ISR_ONE`. -/
theorem rasterInterruptsAlternate : Obligations.RasterInterruptsAlternate :=
  ⟨fun _ _ _ hd hc => execList_alternates hc hd, fun _ _ _ hd hq hts hhead => execList_polls_fire hts hd hq hhead,
    fun _ hd => by cases hd; rfl⟩

/-! ## Quit and the end of a run (rules R162, R248, R287, decision D41) -/

theorem rasterIsr_ne_quit (q : RasterIrq) : rasterIsr q ≠ .quit := by
  cases q <;> decide

theorem Device.Effect.quit_of_isr_quit {s : State} {d d' : Device} {t : Time} {r : Result} (h : d.Effect s (.poll t) r d')
    (hr : r = .isr .quit) : d.quit = true := by
  cases h with
  | pollQuit _ hq => exact hq
  | pollFrame | pollOther => exact absurd (Result.isr.inj hr) (rasterIsr_ne_quit d.next)
  | blit _ _ hb => cases hb
  | _ => cases hr

/-- An operation answers `ISR_QUIT` exactly if it is a poll in the quit state. -/
theorem exec_result_eq_quit_iff {i : Instr} {s t : State} (h : exec i s = .next t) :
    t.result = .isr .quit ↔ ∃ x d, i = .poll x ∧ s.dev = some d ∧ d.quit = true := by
  constructor
  · intro hr
    obtain ⟨x, d, rfl, hd⟩ := exec_poll_of_isr h hr
    obtain ⟨_, d', hu, -, heffect⟩ := exec_hasEffect hd (i := .poll x) rfl
    cases hu.symm.trans h
    exact ⟨x, d, rfl, hd, heffect.quit_of_isr_quit hr⟩
  · rintro ⟨x, d, rfl, hd, hq⟩
    cases (exec_poll_quit hd hq x).symm.trans h
    rfl

theorem State.environment_result {e : Event} (he : ∀ p, e ≠ .operate p) (s : State) : (s.environment e).result = .none := by
  cases e with
  | operate p => exact absurd rfl (he p)
  | _ => rfl

/-- A step ends the run exactly if it is a poll in the quit state. -/
theorem step_endsRun_iff {s t : State} (h : step s = .next t) :
    t.result.endsRun = true ↔ ∃ p rest x d, s.schedule = .operate p :: rest ∧ decode p = .ok (.poll x) ∧ s.dev = some d ∧
      d.quit = true := by
  rw [Result.endsRun_iff]
  constructor
  · intro hr
    obtain ⟨p, rest, i, hs, hp, hi⟩ | ⟨e, rest, -, he, rfl⟩ | ⟨-, rfl⟩ := step_cases h
    · obtain ⟨x, d, rfl, hd, hq⟩ := (exec_result_eq_quit_iff hi).1 hr
      exact ⟨p, rest, x, d, hs, hp, hd, hq⟩
    · cases (State.environment_result he _).symm.trans hr
    · cases hr
  · rintro ⟨p, rest, x, d, hs, hp, hd, hq⟩
    exact (exec_result_eq_quit_iff ((step_operate hs hp).symm.trans h)).2 ⟨x, d, rfl, hd, hq⟩

/-- `r` is the run at the start of `ops` from `s`: the operations up to and including the first poll that answers `ISR_QUIT`, or
all of them. -/
structure Run.IsRunOf (r : Run) (ops : List Instr) (s : State) : Prop where
  splits : ops = r.inside ++ r.outside
  performed : execList r.inside s = some (r.final, r.answers)
  whole : r.ended = false → r.outside = [] ∧ Result.isr .quit ∉ r.answers
  ends : r.ended = true → ∃ pre x rs, r.inside = pre ++ [.poll x] ∧ r.answers = rs ++ [.isr .quit] ∧ Result.isr .quit ∉ rs ∧
    ∃ d, r.final.dev = some d ∧ d.quit = true

theorem Run.isRunOf_nil (s : State) : Run.IsRunOf ⟨[], [], s, [], false⟩ [] s where
  splits := rfl
  performed := rfl
  whole := fun _ => ⟨rfl, List.not_mem_nil⟩
  ends := nofun

/-- The poll that answers `ISR_QUIT` is a run of its own, whatever follows it. -/
theorem Run.isRunOf_ends {i : Instr} {s t : State} (h : exec i s = .next t) (hr : t.result = .isr .quit) (rest : List Instr) :
    Run.IsRunOf ⟨[i], [t.result], t, rest, true⟩ (i :: rest) s where
  splits := rfl
  performed := by rw [execList_cons h]; rfl
  whole := nofun
  ends := fun _ => by
    obtain ⟨x, d, rfl, hd, hq⟩ := (exec_result_eq_quit_iff h).1 hr
    cases (exec_poll_quit hd hq x).symm.trans h
    exact ⟨[], x, [], rfl, rfl, List.not_mem_nil, d, rfl, hq⟩

/-- An operation that answers anything else goes before the run that follows it. -/
theorem Run.IsRunOf.cons {i : Instr} {s t : State} {rest : List Instr} {r : Run} (hrun : r.IsRunOf rest t)
    (h : exec i s = .next t) (hr : t.result ≠ .isr .quit) :
    Run.IsRunOf { r with inside := i :: r.inside, answers := t.result :: r.answers } (i :: rest) s where
  splits := by simp [← hrun.splits]
  performed := by rw [execList_cons h, hrun.performed]; rfl
  whole := fun hended => by
    obtain ⟨hout, hanswers⟩ := hrun.whole hended
    exact ⟨hout, List.not_mem_cons_of_ne_of_not_mem hr.symm hanswers⟩
  ends := fun hended => by
    obtain ⟨pre, x, rs, hinside, hanswers, hrs, hfinal⟩ := hrun.ends hended
    exact ⟨i :: pre, x, t.result :: rs, by simp [hinside], by simp [hanswers],
      List.not_mem_cons_of_ne_of_not_mem hr.symm hrs, hfinal⟩

theorem runList_isRunOf (ops : List Instr) (s : State) : ∃ r, runList ops s = some r ∧ r.IsRunOf ops s := by
  induction ops generalizing s with
  | nil => exact ⟨_, runList_nil s, Run.isRunOf_nil s⟩
  | cons i rest ih =>
    obtain ⟨t, h⟩ := everyOperationAnswers i s
    cases hends : t.result.endsRun with
    | true => exact ⟨_, runList_ends h hends rest, Run.isRunOf_ends h (Result.endsRun_iff.1 hends) rest⟩
    | false =>
      obtain ⟨r, hrest, hrun⟩ := ih t
      have hr : t.result ≠ .isr .quit := fun hr => Bool.false_ne_true (hends.symm.trans (Result.endsRun_iff.2 hr))
      exact ⟨_, by rw [runList_goes_on h hends, hrest]; rfl, hrun.cons h hr⟩

/-- In the quit state any operations without CONSTRUCT leave a quit state, and a poll there changes nothing but the answer. -/
theorem execList_then_poll_quit {ops : List Instr} (hc : ∀ c, Instr.construct c ∉ ops) {s : State} {d : Device}
    (hd : s.dev = some d) (hq : d.quit = true) (t : Time) :
    ∃ u rs, execList ops s = some (u, rs) ∧ u.dev ≠ none ∧ exec (.poll t) u = .next { u with result := .isr .quit } := by
  obtain ⟨u, rs, d', hops, hd', hq'⟩ := execList_keeps (P := fun d => d.quit = true) hc
    (fun _ _ _ _ _ _ heffect hq => heffect.flags.1.2 (.inl hq)) hd hq
  refine ⟨u, rs, hops, Option.ne_none_iff_exists'.2 ⟨d', hd'⟩, ?_⟩
  rw [exec_poll_quit hd' hq', State.afterOp, ← hd']

/-- Settles O31: `QUIT` stays set and every poll reports it; only such a poll answers `ISR_QUIT`, so the run ends there. -/
theorem quitIsTerminal : Obligations.QuitIsTerminal := by
  refine ⟨fun ops s d t hd hq hc => execList_then_poll_quit hc hd hq t, fun s t => step_endsRun_iff, fun ops s => ?_⟩
  obtain ⟨r, hr, hrun⟩ := runList_isRunOf ops s
  exact ⟨r, hr, hrun.splits, hrun.performed, hrun.whole, hrun.ends⟩

/-! ## Load and save requests (rule R166) -/

/-- An operation that is no request and does not answer the pending one leaves it pending. -/
theorem Device.Effect.lsreq_eq {s : State} {d d' : Device} {i : Instr} {r : Result} (h : d.Effect s i r d')
    (hload : i ≠ .reqload) (hsave : i ≠ .reqsave) (hr : r ≠ .isr d.lsreq.isr) : d'.lsreq = d.lsreq := by
  cases h with
  | reqload => exact absurd rfl hload
  | reqsave => exact absurd rfl hsave
  | pollLoad _ _ _ hl | pollSave _ _ _ hl => exact absurd (by rw [hl]; rfl) hr
  | pollFrame t => rw [Device.snapshot_lsreq, Device.turn_lsreq]
  | snapshotInside => exact d.snapshot_lsreq s.mem
  | _ => rfl

/-- A request stays pending over operations that are no request, as long as none answers it. -/
theorem execList_keeps_request {ops : List Instr} (hc : ∀ c, Instr.construct c ∉ ops) (hload : Instr.reqload ∉ ops)
    (hsave : Instr.reqsave ∉ ops) {s u : State} {d : Device} {rs : List Result} (hd : s.dev = some d)
    (h : execList ops s = some (u, rs)) (hr : Result.isr d.lsreq.isr ∉ rs) :
    ∃ d', u.dev = some d' ∧ d'.lsreq = d.lsreq := by
  induction ops generalizing s d rs with
  | nil =>
    cases h
    exact ⟨d, hd, rfl⟩
  | cons i ops ih =>
    obtain ⟨t, e, ht, he, heffect⟩ := exec_hasEffect hd (Instr.isConstruct_of_mem hc List.mem_cons_self)
    rw [execList_cons ht] at h
    obtain ⟨⟨u', rs'⟩, hops, hu⟩ := Option.map_eq_some_iff.1 h
    cases hu
    have hl : e.lsreq = d.lsreq := heffect.lsreq_eq (List.ne_of_not_mem_cons hload).symm
      (List.ne_of_not_mem_cons hsave).symm (List.ne_of_not_mem_cons hr).symm
    obtain ⟨d', hd', hl'⟩ := ih (fun c hx => hc c (List.mem_cons_of_mem i hx)) (List.not_mem_of_not_mem_cons hload)
      (List.not_mem_of_not_mem_cons hsave) he hops (hl ▸ List.not_mem_of_not_mem_cons hr)
    exact ⟨d', hd', hl'.trans hl⟩

/-- Settles O32: the request is still pending, so a poll that does not fire answers it and clears it, and the next one finds
none. -/
theorem requestReturnedOnce : Obligations.RequestReturnedOnce := by
  intro s u d ops rs q r hqr hd hl hc hload hsave hops hnot
  have hr : r = d.lsreq.isr := by obtain ⟨rfl, rfl⟩ | ⟨rfl, rfl⟩ := hqr <;> rw [hl] <;> rfl
  subst hr
  obtain ⟨d', hd', hl'⟩ := execList_keeps_request hc hload hsave hd hops hnot
  refine ⟨d', hd', hl'.trans hl, fun t hquit ht => ⟨?first, ?again⟩⟩
  case first => rw [exec_poll_pending hd' hquit ht, hl']
  case again => exact exec_poll_pending (d := { d' with lsreq := .none }) rfl hquit ht

end Sys2Proof.Machine

/-! PROOFS. The Frame Pool (spec/43_frame_pool.md): the dropped snapshot (rule R182), DEQUEUE and RETURN (rules R184, R185), and the
conservation of buffers (rule R186). -/

namespace Sys2Proof.Machine

/-! ## The dropped snapshot (rule R182) -/

/-- Settles O35: with no free buffer the snapshot adds to `DROPS` alone, inside the POLL and in the poll that fires. -/
theorem snapshotDropsWithoutWaiting : Obligations.SnapshotDropsWithoutWaiting := by
  refine fun s d hd hfree => ⟨fun hp => ?snapshot, fun t hq ht hn => ?poll⟩
  case snapshot =>
    refine (State.produce_inside hd hp).trans ?_
    rw [Device.snapshot_dropped hfree]
    rfl
  case poll =>
    refine (exec_poll_fires hd hq ht).trans ((State.fire_frame hn t).trans ?_)
    rw [Device.snapshot_dropped (d := d.turn t) hfree]
    rfl

/-! ## DEQUEUE and RETURN (rules R184, R185) -/

theorem Device.owns_setOwner_self {d : Device} {k : Nat} (hk : k < d.poolN) (o : Owner) : (d.setOwner k o).owns k o = true := by
  simp [Device.owns_setOwner, hk]

theorem Device.owns_setOwner_of_ne (d : Device) {j k : Nat} (h : j ≠ k) (o o' : Owner) :
    (d.setOwner k o).owns j o' = d.owns j o' := by
  rw [Device.owns_setOwner, if_neg h.symm]

section
variable {s : State} {d : Device} {k : Nat}

theorem exec_dequeue_empty (hd : s.dev = some d) (hq : d.queue = []) :
    exec .dequeue s = .next (s.afterRefusal .queueEmpty) := by
  simp only [exec, execDequeue, State.onDevice_some hd, hq]
  rfl

theorem exec_dequeue_head (hd : s.dev = some d) {rest : List Nat} (hq : d.queue = k :: rest) :
    exec .dequeue s = .next (s.afterOp { d.setOwner k .held with queue := rest } (.buffer k)) := by
  simp only [exec, execDequeue, State.onDevice_some hd, hq]
  rfl

theorem exec_giveBack_held (hd : s.dev = some d) (hk : d.owns k .held = true) :
    exec (.giveBack k) s = .next (s.afterOp (d.setOwner k .free) .done) := by
  simp only [exec, execGiveBack, State.onDevice_some hd, hk, if_true]
  rfl

theorem exec_giveBack_notHeld (hd : s.dev = some d) (hk : d.owns k .held = false) :
    exec (.giveBack k) s = .next (s.afterRefusal .notHeld) := by
  simp only [exec, execGiveBack, State.onDevice_some hd, hk, Bool.false_eq_true, if_false]
  rfl

end

/-- Settles O36: DEQUEUE takes the head off `QUEUE` and changes the owner of that buffer alone. -/
theorem dequeueTakesHead : Obligations.DequeueTakesHead := fun _ d hd =>
  ⟨exec_dequeue_empty hd, fun k _ hq hk =>
    ⟨_, exec_dequeue_head hd hq, rfl, d.poolN_setOwner k .held, Device.owns_setOwner_self hk .held,
      fun _ o hj => d.owns_setOwner_of_ne hj .held o, fun j => d.bytes_setOwner k j .held⟩⟩

/-- Settles O37: RETURN changes the owner of the held buffer alone. -/
theorem returnFreesHeldBuffer : Obligations.ReturnFreesHeldBuffer := fun _ d k hd =>
  ⟨exec_giveBack_notHeld hd, fun hk =>
    ⟨_, exec_giveBack_held hd hk, rfl, d.poolN_setOwner k .free, Device.owns_setOwner_self (Device.owns_lt hk) .free,
      fun _ o hj => d.owns_setOwner_of_ne hj .free o, fun j => d.bytes_setOwner k j .free⟩⟩

/-! ## Conservation (rule R186) -/

/-- `d'` has the counts of `d`, but for one buffer that went from owner `o` to owner `o'`. -/
def Device.Moved (d d' : Device) (o o' : Owner) : Prop :=
  ∀ p, d'.count p + (if o = p then 1 else 0) = d.count p + (if o' = p then 1 else 0)

/-- Putting `b` for a buffer of owner `o` moves one buffer: the others are the same before and after. -/
theorem Device.moved_of_set {d d' : Device} {k : Nat} {o : Owner} {b : FrameBuffer} (hk : d.owns k o = true)
    (hb : d'.buffers = d.buffers.set k b) : d.Moved d' o b.owner := by
  intro p
  have hlt : k < d.buffers.length := Device.owns_lt hk
  have ho : d.buffers[k].owner = o := by simpa [Device.owns, hlt] using hk
  have hnew := (List.set_perm_cons_eraseIdx hlt b).countP_eq fun b => b.owner == p
  have hold := (List.getElem_cons_eraseIdx_perm hlt).countP_eq fun b => b.owner == p
  simp only [List.countP_cons, ho, beq_iff_eq] at hnew hold
  unfold Device.count
  rw [hb]
  omega

theorem Device.moved_setOwner {d : Device} {k : Nat} {o : Owner} (hk : d.owns k o = true) (o' : Owner) :
    d.Moved (d.setOwner k o') o o' := by
  have hlt : k < d.buffers.length := Device.owns_lt hk
  have hset : (d.setOwner k o').buffers = d.buffers.set k { d.buffers[k] with owner := o' } := List.modify_eq_set_get _ hlt
  exact Device.moved_of_set hk hset

/-- A snapshot that is not dropped moves a free buffer to the queued ones. -/
theorem Device.count_snapshot_cases (d : Device) (mem : Memory) :
    (∀ p, (d.snapshot mem).count p = d.count p) ∨ d.Moved (d.snapshot mem) .free .queued := by
  obtain ⟨k, hk, -, h⟩ | ⟨-, h⟩ := d.snapshot_cases mem
  · exact .inr (Device.moved_of_set hk (congrArg Device.buffers h))
  · exact .inl fun p => by rw [h]; rfl

theorem Device.Inv.owns_head {d : Device} (h : d.Inv) {k : Nat} {rest : List Nat} (hq : d.queue = k :: rest) :
    d.owns k .queued = true :=
  (h.queue_queued k).1 (hq ▸ List.mem_cons_self)

/-- What an operation does to the counts of the pool: at most one buffer moves, from the owner to the owner that is the
operation's. -/
theorem Device.Effect.count_cases {s : State} {d d' : Device} {i : Instr} {r : Result} (h : d.Effect s i r d') (hi : d.Inv) :
    (∀ p, d'.count p = d.count p) ∨
    (((∃ x, i = .poll x) ∨ (i = .snapshot ∧ s.inPoll = true)) ∧ d.Moved d' .free .queued) ∨
    (i = .dequeue ∧ d.Moved d' .queued .held) ∨
    ((∃ k, i = .giveBack k) ∧ d.Moved d' .held .free) := by
  cases h with
  | pollFrame t => exact (Device.count_snapshot_cases (d.turn t) s.mem).imp id fun h => .inl ⟨.inl ⟨t, rfl⟩, h⟩
  | snapshotInside hp => exact (d.count_snapshot_cases s.mem).imp id fun h => .inl ⟨.inr ⟨rfl, hp⟩, h⟩
  | dequeueHead k rest hq => exact .inr (.inr (.inl ⟨rfl, Device.moved_setOwner (hi.owns_head hq) .held⟩))
  | giveBackHeld k hk => exact .inr (.inr (.inr ⟨⟨k, rfl⟩, Device.moved_setOwner hk .free⟩))
  | _ => exact .inl fun _ => rfl

theorem Device.Effect.poolN_eq {s : State} {d d' : Device} {i : Instr} {r : Result} (h : d.Effect s i r d') :
    d'.poolN = d.poolN := by
  cases h with
  | pollFrame t => exact (d.turn t).poolN_snapshot s.mem
  | snapshotInside => exact d.poolN_snapshot s.mem
  | dequeueHead k => exact d.poolN_setOwner k .held
  | giveBackHeld k => exact d.poolN_setOwner k .free
  | _ => rfl

/-- Settles O38: each buffer has one owner, so the counts sum to `POOL_N`, and a buffer that moves leaves one count for
another. -/
theorem poolConservation : Obligations.PoolConservation := by
  intro i s d hd hinv hc
  obtain ⟨t, d', h, ht, he⟩ := exec_hasEffect hd hc
  refine ⟨t, d', h, ht, he.poolN_eq, d'.count_sum, ?_⟩
  obtain heq | ⟨hi, hm⟩ | ⟨hi, hm⟩ | ⟨hi, hm⟩ := he.count_cases hinv
  · exact .inl ⟨heq .free, heq .queued, heq .held⟩
  · exact .inr (.inl ⟨hi, (hm .free).symm, hm .queued, hm .held⟩)
  · exact .inr (.inr (.inl ⟨hi, hm .free, (hm .queued).symm, hm .held⟩))
  · exact .inr (.inr (.inr ⟨hi, hm .free, hm .queued, (hm .held).symm⟩))

end Sys2Proof.Machine

/-! PROOFS. The Video Blitter (spec/44_video_blitter.md): what BLIT reads (rule R200), what a BLIT of each mode that runs leaves in
HOST's memory (rules R202, R203, R205, R206), that it is a pure function (rule R207), and the Upright picture of one pixel and of a
whole frame (rules R205, R208). -/

namespace Sys2Proof.Machine

/-! ## What BLIT reads -/

/-- Settles O45: a frame by the owner of its buffer, HOST's memory by the bytes of a slice. -/
theorem blitSourceBytes : Obligations.BlitSourceBytes := fun s _ =>
  ⟨fun k b hb ho => by simp [State.sourceBytes, hb, ho], fun _ => State.sourceBytes_frame.2,
    fun base => ⟨_, rfl, Memory.read_slice s.hostMem base vramLen⟩⟩

/-! ## A destination large enough for its mode -/

theorem fitsNative_eq_true {dst : DstBuf} : fitsNative dst = true ↔ 7168 ≤ dst.size := decide_eq_true_iff

theorem fitsRows_eq_true {dst : DstBuf} {row stride : Nat} :
    fitsRows dst row stride = true ↔ row ≤ stride ∧ 255 * stride + row ≤ dst.size := by
  rw [fitsRows, Bool.and_eq_true, decide_eq_true_eq, decide_eq_true_eq]

theorem fitsLinear_eq_true {dst : DstBuf} : fitsLinear dst = true ↔ 57344 ≤ dst.size := decide_eq_true_iff

/-! ## A BLIT that runs, mode by mode -/

section
variable {s : State} {d : Device} {dst : DstBuf} {src : Source} {stride : Nat} {bytes : Memory}

theorem exec_blitNative_runs (hd : s.dev = some d) (hm : d.mode = 0) (hb : s.sourceBytes d src = some bytes)
    (ho : dstOverlaps dst src = false) (hsize : 7168 ≤ dst.size) :
    exec (.blitNative dst src stride) s = .next (s.afterBlit (paintNative s.hostMem dst bytes)) :=
  State.blit_runs hd hb hm ho (fitsNative_eq_true.2 hsize) _

theorem exec_blitRgb332_runs (hd : s.dev = some d) (hm : d.mode = 1) (hb : s.sourceBytes d src = some bytes)
    (ho : dstOverlaps dst src = false) (hs : 224 ≤ stride) (hsize : 255 * stride + 224 ≤ dst.size) :
    exec (.blitRgb332 dst src stride) s = .next (s.afterBlit (paintRgb332 s.hostMem dst bytes stride d.colour)) :=
  State.blit_runs hd hb hm ho (fitsRows_eq_true.2 ⟨hs, hsize⟩) _

theorem exec_blitUpright_runs (hd : s.dev = some d) (hm : d.mode = 2) (hb : s.sourceBytes d src = some bytes)
    (ho : dstOverlaps dst src = false) (hs : 28 ≤ stride) (hsize : 255 * stride + 28 ≤ dst.size) :
    exec (.blitUpright dst src stride) s = .next (s.afterBlit (paintUpright s.hostMem dst bytes stride)) :=
  State.blit_runs hd hb hm ho (fitsRows_eq_true.2 ⟨hs, hsize⟩) _

theorem exec_blitUpright8bpp_runs_linear (hd : s.dev = some d) (hm : d.mode = 3) (hb : s.sourceBytes d src = some bytes)
    (ho : dstOverlaps dst src = false) (hl : s.params.upright8 = .linear) (hsize : 57344 ≤ dst.size) :
    exec (.blitUpright8bpp dst src stride) s = .next (s.afterBlit (paintLinear s.hostMem dst bytes d.colour)) :=
  (exec_blitUpright8bpp_linear hl dst src stride).trans (State.blit_runs hd hb hm ho (fitsLinear_eq_true.2 hsize) _)

theorem exec_blitUpright8bpp_runs_asRgb332 (hd : s.dev = some d) (hm : d.mode = 3)
    (hb : s.sourceBytes d src = some bytes) (ho : dstOverlaps dst src = false) (hl : s.params.upright8 = .asRgb332)
    (hs : 224 ≤ stride) (hsize : 255 * stride + 224 ≤ dst.size) :
    exec (.blitUpright8bpp dst src stride) s = .next (s.afterBlit (paintRgb332 s.hostMem dst bytes stride d.colour)) :=
  (exec_blitUpright8bpp_asRgb332 hl dst src stride).trans
    (State.blit_runs hd hb hm ho (fitsRows_eq_true.2 ⟨hs, hsize⟩) _)

end

/-- Settles O41: the plain copy runs, and reads back as the source. -/
theorem blitNativeCopies : Obligations.BlitNativeCopies := fun s _ dst _ _ bytes hd hm hb ho hsize =>
  ⟨_, exec_blitNative_runs hd hm hb ho hsize, read_paintNative s.hostMem dst bytes⟩

/-- Settles O42, by the pixels of the rotated picture and what lies outside it. -/
theorem blitRgb332Rotates : Obligations.BlitRgb332Rotates := fun _ _ _ _ _ _ hd hm hb ho hs hsize =>
  ⟨_, exec_blitRgb332_runs hd hm hb ho hs hsize, fun _ _ => read_paintRgb332 hs, fun _ => paintRgb332_outside hs⟩

/-- Settles O43, by the bits of the transposed picture and what lies outside it. -/
theorem blitUprightTransposes : Obligations.BlitUprightTransposes := fun _ _ _ _ _ _ hd hm hb ho hs hsize =>
  ⟨_, exec_blitUpright_runs hd hm hb ho hs hsize, fun _ _ _ => read_paintUpright hs, fun _ => paintUpright_outside hs⟩

/-- Settles O44, layout by layout: the pixels in source order, or the picture of rule R203. -/
theorem blitUpright8bppExpands : Obligations.BlitUpright8bppExpands := fun _ _ _ _ _ _ hd hm hb ho =>
  ⟨fun hl hsize => ⟨_, exec_blitUpright8bpp_runs_linear hd hm hb ho hl hsize, fun _ _ => read_paintLinear,
      fun _ => paintLinear_outside⟩,
    fun hl hs hsize => ⟨_, exec_blitUpright8bpp_runs_asRgb332 hd hm hb ho hl hs hsize, fun _ _ => read_paintRgb332 hs,
      fun _ => paintRgb332_outside hs⟩⟩

/-! ## The pictures by row and column -/

/-- Row `r` of the rotated picture holds pixel `255 - r` of every line. -/
theorem read_paintRgb332_rowByte {m : Memory} {dst : DstBuf} {src : Memory} {stride : Nat} {colour : Byte} {r c : Nat}
    (hs : 224 ≤ stride) (hr : r < 256) (hc : c < 224) :
    Memory.read (paintRgb332 m dst src stride colour) (rowByte dst stride r c)
      = if px src c (255 - r) then colour else 0#8 := by
  have hrow : 255 - (255 - r) = r := by omega
  have hp : 255 - r < 256 := by omega
  have h := read_paintRgb332 (m := m) (dst := dst) (src := src) (colour := colour) hs hc hp
  rwa [hrow] at h

/-- Row `r` of the transposed picture holds pixel `255 - r` of every line, eight lines to a byte. -/
theorem read_paintUpright_rowByte {m : Memory} {dst : DstBuf} {src : Memory} {stride r k j : Nat}
    (hs : 28 ≤ stride) (hr : r < 256) (hk : k < 28) (hj : j < 8) :
    (Memory.read (paintUpright m dst src stride) (rowByte dst stride r k)).getLsbD j = px src (8 * k + j) (255 - r) := by
  have hrow : 255 - (255 - r) = r := by omega
  have hp : 255 - r < 256 := by omega
  have h := read_paintUpright (m := m) (dst := dst) (src := src) hs hk hp hj
  rwa [hrow] at h

/-- Settles O48: a bit of the picture is its source pixel, and a line has one byte column and one bit. -/
theorem uprightSinglePixel : Obligations.UprightSinglePixel := by
  intro s d dst src stride bytes L0 p0 hd hm hb ho hs hsize hL hp hset
  refine ⟨_, exec_blitUpright_runs hd hm hb ho hs hsize, fun r k j hr hk hj => ?_⟩
  calc (Memory.read (paintUpright s.hostMem dst bytes stride) (rowByte dst stride r k)).getLsbD j = true
    _ ↔ px bytes (8 * k + j) (255 - r) = true := by rw [read_paintUpright_rowByte hs hr hk hj]
    _ ↔ 8 * k + j = L0 ∧ 255 - r = p0 := hset _ _ (by omega) (by omega)
    _ ↔ r = 255 - p0 ∧ k = L0 / 8 ∧ j = L0 % 8 := by omega

/-- Settles O49: both pictures show pixel `255 - r` of line `c` there. -/
theorem uprightPacksRgb332 : Obligations.UprightPacksRgb332 := by
  intro s s' d d' dst dst' src src' bytes hd hm hb ho hsize hd' hm' hcolour hb' ho' hsize'
  refine ⟨_, _, exec_blitUpright_runs hd hm hb ho (Nat.le_refl 28) hsize,
    exec_blitRgb332_runs hd' hm' hb' ho' (Nat.le_refl 224) hsize', fun r c hr hc => ?_⟩
  have hbit : (Memory.read (paintUpright s.hostMem dst bytes 28) (rowByte dst 28 r (c / 8))).getLsbD (c % 8)
      = px bytes c (255 - r) := by
    rw [read_paintUpright_rowByte (Nat.le_refl 28) hr (by omega) (by omega), Nat.div_add_mod]
  have hbyte : Memory.read (paintRgb332 s'.hostMem dst' bytes 224 d'.colour) (rowByte dst' 224 r c)
      = if px bytes c (255 - r) then 1#8 else 0#8 := by
    rw [read_paintRgb332_rowByte (Nat.le_refl 224) hr hc, hcolour]
    rfl
  show (Memory.read (paintUpright s.hostMem dst bytes 28) _).getLsbD _ = true ↔
    Memory.read (paintRgb332 s'.hostMem dst' bytes 224 d'.colour) _ = 1#8
  rw [hbit, hbyte]
  cases px bytes c (255 - r) <;> decide

/-! ## Purity (rule R207) -/

/-- Each offset from `base` and `base'` is written alike in `n` and `n'`, or left there as it was in `m` and `m'`. -/
def WrittenAlike (base : Nat) (m n : Memory) (base' : Nat) (m' n' : Memory) : Prop :=
  ∀ o, Memory.read n (base + o) = Memory.read n' (base' + o) ∨
    (Memory.read n (base + o) = Memory.read m (base + o) ∧ Memory.read n' (base' + o) = Memory.read m' (base' + o))

/-- Sources of the same bytes have the same pixels. -/
theorem px_congr {src src' : Memory} (h : ∀ o, o < 7168 → Memory.read src o = Memory.read src' o) {L p : Nat} (hL : L < 224)
    (hp : p < 256) : px src L p = px src' L p := by
  have ho : srcLineBytes * L + p / 8 < 7168 := by
    unfold srcLineBytes
    omega
  rw [px, px, h _ ho]

section
variable {dst dst' : DstBuf} {src src' : Memory} {stride : Nat}

theorem paintNative_alike (h : ∀ o, o < 7168 → Memory.read src o = Memory.read src' o) (m m' : Memory) :
    WrittenAlike dst.base m (paintNative m dst src) dst'.base m' (paintNative m' dst' src') := by
  intro o
  have hread (m : Memory) (dst : DstBuf) (src : Memory) : Memory.read (paintNative m dst src) (dst.base + o)
      = if o < 7168 then Memory.read src o else Memory.read m (dst.base + o) := by
    simp [read_paintNative, vramLen]
  rw [hread, hread]
  by_cases ho : o < 7168
  · exact .inl (by simp [ho, h o ho])
  · exact .inr (by simp [ho])

/-- Two pictures in rows are alike where their bytes are and both leave what is outside their rows. -/
theorem writtenAlike_of_rows {row : Nat} {m n m' n' : Memory}
    (hin : ∀ r c, r < 256 → c < row → Memory.read n (rowByte dst stride r c) = Memory.read n' (rowByte dst' stride r c))
    (hout : ∀ a, (¬ ∃ r c, r < 256 ∧ c < row ∧ a = rowByte dst stride r c) → Memory.read n a = Memory.read m a)
    (hout' : ∀ a, (¬ ∃ r c, r < 256 ∧ c < row ∧ a = rowByte dst' stride r c) → Memory.read n' a = Memory.read m' a) :
    WrittenAlike dst.base m n dst'.base m' n' := by
  intro o
  by_cases ho : ∃ r c, r < 256 ∧ c < row ∧ o = r * stride + c
  · obtain ⟨r, c, hr, hc, rfl⟩ := ho
    exact .inl (hin r c hr hc)
  · exact .inr ⟨hout _ fun ⟨r, c, hr, hc, he⟩ => ho ⟨r, c, hr, hc, Nat.add_left_cancel he⟩,
      hout' _ fun ⟨r, c, hr, hc, he⟩ => ho ⟨r, c, hr, hc, Nat.add_left_cancel he⟩⟩

theorem paintRgb332_alike (h : ∀ o, o < 7168 → Memory.read src o = Memory.read src' o) (hs : 224 ≤ stride)
    (m m' : Memory) {colour colour' : Byte} (hc : colour = colour') :
    WrittenAlike dst.base m (paintRgb332 m dst src stride colour) dst'.base m' (paintRgb332 m' dst' src' stride colour') := by
  subst hc
  refine writtenAlike_of_rows (row := 224) (fun r c hr hc => ?_) (fun _ => paintRgb332_outside hs)
    fun _ => paintRgb332_outside hs
  rw [read_paintRgb332_rowByte hs hr hc, read_paintRgb332_rowByte hs hr hc, px_congr h hc (by omega)]

theorem paintUpright_alike (h : ∀ o, o < 7168 → Memory.read src o = Memory.read src' o) (hs : 28 ≤ stride)
    (m m' : Memory) :
    WrittenAlike dst.base m (paintUpright m dst src stride) dst'.base m' (paintUpright m' dst' src' stride) := by
  refine writtenAlike_of_rows (row := 28) (fun r k hr hk => BitVec.eq_of_getLsbD_eq fun j hj => ?_)
    (fun _ => paintUpright_outside hs) fun _ => paintUpright_outside hs
  rw [read_paintUpright_rowByte hs hr hk hj, read_paintUpright_rowByte hs hr hk hj, px_congr h (by omega) (by omega)]

theorem paintLinear_alike (h : ∀ o, o < 7168 → Memory.read src o = Memory.read src' o) (m m' : Memory)
    {colour colour' : Byte} (hc : colour = colour') :
    WrittenAlike dst.base m (paintLinear m dst src colour) dst'.base m' (paintLinear m' dst' src' colour') := by
  subst hc
  intro o
  by_cases ho : o < 57344
  · have hL : o / 256 < 224 := by omega
    have hp : o % 256 < 256 := by omega
    have hplace : srcLinePix * (o / 256) + o % 256 = o := Nat.div_add_mod o 256
    have hread (m : Memory) (dst : DstBuf) (src : Memory) : Memory.read (paintLinear m dst src colour) (dst.base + o)
        = if px src (o / 256) (o % 256) then colour else 0#8 := by
      simpa only [hplace] using read_paintLinear (m := m) (dst := dst) (src := src) (colour := colour) hL hp
    exact .inl (by rw [hread, hread, px_congr h hL hp])
  · have hleft (m : Memory) (dst : DstBuf) (src : Memory) :
        Memory.read (paintLinear m dst src colour) (dst.base + o) = Memory.read m (dst.base + o) :=
      paintLinear_outside fun ha => ho (Nat.add_lt_add_iff_left.1 ha.2)
    exact .inr ⟨hleft .., hleft ..⟩

end

/-- A BLIT that answered `done` was no refusal, so it painted and its destination was large enough. -/
theorem State.blit_painted {s t : State} {d : Device} {sub : BitVec 2} {dst : DstBuf} {src : Source} {fits : Bool}
    {bytes : Memory} {paint : Device → Memory → Memory} (hd : s.dev = some d) (hb : s.sourceBytes d src = some bytes)
    (h : s.blit sub dst src fits paint = .next t) (hr : t.result = .done) : fits = true ∧ t.hostMem = paint d bytes := by
  obtain ⟨_, rfl⟩ | ⟨e, bytes', he, hb', -, -, hf, rfl⟩ := State.blit_cases h
  · cases hr
  · cases hd.symm.trans he
    cases hb.symm.trans hb'
    exact ⟨hf, rfl⟩

/-- Two completed BLITs write alike if their pictures do. -/
theorem State.blit_alike {s s' t t' : State} {d d' : Device} {sub : BitVec 2} {dst dst' : DstBuf} {src src' : Source}
    {fits fits' : Bool} {bytes bytes' : Memory} {paint paint' : Device → Memory → Memory} (hd : s.dev = some d)
    (hd' : s'.dev = some d') (hb : s.sourceBytes d src = some bytes) (hb' : s'.sourceBytes d' src' = some bytes')
    (h : s.blit sub dst src fits paint = .next t) (hr : t.result = .done)
    (h' : s'.blit sub dst' src' fits' paint' = .next t') (hr' : t'.result = .done)
    (hpaint : fits = true → WrittenAlike dst.base s.hostMem (paint d bytes) dst'.base s'.hostMem (paint' d' bytes')) :
    WrittenAlike dst.base s.hostMem t.hostMem dst'.base s'.hostMem t'.hostMem := by
  obtain ⟨hf, ht⟩ := State.blit_painted hd hb h hr
  obtain ⟨-, ht'⟩ := State.blit_painted hd' hb' h' hr'
  rw [ht, ht']
  exact hpaint hf

/-- Settles O47, mode by mode: a picture depends on the source bytes, the pitch and COLOUR alone. -/
theorem blitIsPure : Obligations.BlitIsPure := by
  intro mk hmk s s' t t' d d' dst dst' src src' stride bytes bytes' hd hd' hcolour hlayout hb hb' hsame h hr h' hr'
  simp only [List.mem_cons, List.not_mem_nil, or_false] at hmk
  obtain rfl | rfl | rfl | rfl := hmk
  case inl => exact State.blit_alike hd hd' hb hb' h hr h' hr' fun _ => paintNative_alike hsame _ _
  case inr.inl =>
    exact State.blit_alike hd hd' hb hb' h hr h' hr' fun hf => paintRgb332_alike hsame (fitsRows_eq_true.1 hf).1 _ _ hcolour
  case inr.inr.inl =>
    exact State.blit_alike hd hd' hb hb' h hr h' hr' fun hf => paintUpright_alike hsame (fitsRows_eq_true.1 hf).1 _ _
  case inr.inr.inr =>
    cases hl : s.params.upright8 with
    | linear =>
      rw [exec_blitUpright8bpp_linear hl] at h
      rw [exec_blitUpright8bpp_linear (hlayout.symm.trans hl)] at h'
      exact State.blit_alike hd hd' hb hb' h hr h' hr' fun _ => paintLinear_alike hsame _ _ hcolour
    | asRgb332 =>
      rw [exec_blitUpright8bpp_asRgb332 hl] at h
      rw [exec_blitUpright8bpp_asRgb332 (hlayout.symm.trans hl)] at h'
      exact State.blit_alike hd hd' hb hb' h hr h' hr' fun hf =>
        paintRgb332_alike hsame (fitsRows_eq_true.1 hf).1 _ _ hcolour

end Sys2Proof.Machine

/-! PROOFS. The exceptions (spec/60_exceptions.md): where no device exists, no operation but CONSTRUCT has a step (rules R243,
R270, R273). -/

namespace Sys2Proof.Machine

/-- Settles O9: every meaning but CONSTRUCT's is one of `State.onDevice`, which refuses where there is no device. -/
theorem noDeviceNoStep : Obligations.NoDeviceNoStep := fun _ _ hd hc => exec_noDevice hd hc

end Sys2Proof.Machine

/-! PROOFS. CONSTRUCT's four checks and the reading of its colour (spec/70_reset_and_hazards.md rules R270 to R272). -/

namespace Sys2Proof.Machine

/-! ## The first failing check (rules R270, R271; decisions D17, D25) -/

section
variable {p : Params} {drawn : Byte} {cfg : Cfg}

theorem construct_bad_bpp (hb : ¬ (cfg.bpp = 1 ∨ cfg.bpp = 8)) : construct p drawn cfg = .error .bpp :=
  if_pos (not_or.1 hb)

theorem construct_bad_orient (hb : cfg.bpp = 1 ∨ cfg.bpp = 8) (ho : ¬ (cfg.orient = "cocktail" ∨ cfg.orient = "upright")) :
    construct p drawn cfg = .error .orient :=
  (if_neg fun h => hb.elim h.1 h.2).trans (if_pos (not_or.1 ho))

theorem construct_bad_colour (hb : cfg.bpp = 1 ∨ cfg.bpp = 8) (ho : cfg.orient = "cocktail" ∨ cfg.orient = "upright")
    (hc : parseColour p.colourNames drawn cfg.colour = none) : construct p drawn cfg = .error .colour := by
  rw [construct, if_neg fun h => hb.elim h.1 h.2, if_neg fun h => ho.elim h.1 h.2, hc]

theorem construct_bad_pool (hb : cfg.bpp = 1 ∨ cfg.bpp = 8) (ho : cfg.orient = "cocktail" ∨ cfg.orient = "upright")
    {c : Byte} (hc : parseColour p.colourNames drawn cfg.colour = some c)
    (hp : ¬ (cfg.pool = 1 ∨ cfg.pool = 2 ∨ cfg.pool = 3)) : construct p drawn cfg = .error .pool := by
  rw [construct, if_neg fun h => hb.elim h.1 h.2, if_neg fun h => ho.elim h.1 h.2, hc]
  exact if_pos (by simpa only [not_or] using hp)

end

/-- A CONSTRUCT that a check ends leaves no device (rule R271). -/
theorem execConstruct_of_error {cfg : Cfg} {s : State} {e : ConfigError}
    (h : construct s.params (Config.drawnColour s.draws) cfg = .error e) :
    execConstruct cfg s = .next { s with dev := none, draws := s.draws + 1, result := .configError e } := by
  simp [execConstruct, h]

/-- Settles O51, check by check: each fails after those before it have passed. -/
theorem constructFailsByFirstCheck : Obligations.ConstructFailsByFirstCheck := by
  refine fun s cfg => ⟨fun hb => ?bpp, fun hb ho => ?orient, fun hb ho hc => ?colour, fun hb ho hc hp => ?pool⟩
  case bpp => exact execConstruct_of_error (construct_bad_bpp hb)
  case orient => exact execConstruct_of_error (construct_bad_orient hb ho)
  case colour => exact execConstruct_of_error (construct_bad_colour hb ho hc)
  case pool =>
    obtain ⟨c, hc⟩ := Option.ne_none_iff_exists'.1 hc
    exact execConstruct_of_error (construct_bad_pool hb ho hc hp)

/-! ## The colour (rule R272; decisions D25, D33; log 19) -/

theorem hexLiteral_one {a : Char} {x : Nat} (ha : hexDigit a = some x) :
    hexLiteral ['0', 'x', a] = some (BitVec.ofNat 8 x) := by
  simp [hexLiteral, ha]

theorem hexLiteral_two {a b : Char} {x y : Nat} (ha : hexDigit a = some x) (hb : hexDigit b = some y) :
    hexLiteral ['0', 'x', a, b] = some (BitVec.ofNat 8 (16 * x + y)) := by
  simp [hexLiteral, ha, hb]

/-- Only `0x` followed by one or two digits is a hex literal. -/
theorem eq_of_hexLiteral_eq_some {cs : List Char} {c : Byte} (h : hexLiteral cs = some c) :
    (∃ a x, hexDigit a = some x ∧ cs = ['0', 'x', a]) ∨
    (∃ a b x y, hexDigit a = some x ∧ hexDigit b = some y ∧ cs = ['0', 'x', a, b]) := by
  unfold hexLiteral at h
  split at h
  · next a =>
    obtain ⟨x, ha, -⟩ := Option.map_eq_some_iff.1 h
    exact .inl ⟨a, x, ha, rfl⟩
  · next a b =>
    split at h
    · next x y ha hb => exact .inr ⟨a, b, x, y, ha, hb, rfl⟩
    · cases h
  · cases h

section
variable {names : List (String × Byte)} {text : String}

theorem parseColour_of_name {c : Byte} (drawn : Byte) (h : colourName names text = some c) :
    parseColour names drawn text = some c := by
  simp [parseColour, h]

theorem parseColour_of_literal {c : Byte} (drawn : Byte) (hn : colourName names text = none)
    (h : hexLiteral text.toList = some c) : parseColour names drawn text = some c := by
  simp [parseColour, hn, h]

theorem parseColour_of_neither (drawn : Byte) (hn : colourName names text = none) (h : hexLiteral text.toList = none) :
    parseColour names drawn text = if text = "random" then some drawn else none := by
  simp [parseColour, hn, h]

end

/-- Settles O52: a name, a hex literal of one or two digits, "random", or none of them. -/
theorem parseColourFollowsRule : Obligations.ParseColourFollowsRule := by
  refine fun names drawn => ⟨parseColour_of_name drawn rfl, parseColour_of_neither drawn rfl (by decide),
    fun text a b x y hn ha hb => ⟨fun ht => ?oneDigit, fun ht => ?twoDigits⟩,
    fun hn => parseColour_of_neither drawn hn (by decide), fun text hn hr h1 h2 => ?unrecognized⟩
  case oneDigit => exact parseColour_of_literal drawn hn (ht ▸ hexLiteral_one ha)
  case twoDigits => exact parseColour_of_literal drawn hn (ht ▸ hexLiteral_two ha hb)
  case unrecognized =>
    have hlit : hexLiteral text.toList = none := Option.eq_none_iff_forall_ne_some.2 fun _ h =>
      (eq_of_hexLiteral_eq_some h).elim h1 h2
    exact (parseColour_of_neither drawn hn hlit).trans (if_neg hr)

end Sys2Proof.Machine
